-- ==== Sys2Proof/Machine/Params.lean ====
section
/-! DEFINITION. The fixed sizes of 00_scope.md R7, each a named constant with R7's value (R6; log 34). Definitions use
the names: an arithmetic bound names the constant, and a type names it under `delta%`, which elaborates to the
constant's value, so that the type is the plain one (`BitVec 8`) to every lemma about it. -/

namespace Sys2Proof.Machine

/-! ## Memory -/

/-- `MEM_SIZE`: 4096 bytes, addresses 0x000..0xFFF. -/
abbrev memSize : Nat := 4096

/-- The last address that exists, 0xFFF. -/
abbrev maxAddr : Nat := 0xFFF

/-- `ORIGIN`: 0x200, where loaded code begins and where execution begins. -/
abbrev origin : Nat := 0x200

/-- The size of the program area 0x200..0xFFF: the largest image the loader takes (70_reset_and_hazards.md R291). -/
abbrev imageSize : Nat := 0xE00

/-- `FONT_BASE`: 0x000, the address of the glyph image. -/
abbrev fontBase : Nat := 0x000

/-- `FONT_SIZE`: 80 bytes, 16 glyphs of 5 bytes. -/
abbrev fontSize : Nat := 80

/-- The bytes of one glyph. -/
abbrev glyphSize : Nat := 5

/-! ## Registers -/

/-- `NREGS`: 16 general registers. -/
abbrev nregs : Nat := 16

/-- The width of a general register and of a byte of memory: 8 bits. -/
abbrev regWidth : Nat := 8

/-- `PC_WIDTH`: 16 bits. -/
abbrev pcWidth : Nat := 16

/-- `I_WIDTH`: 16 bits. -/
abbrev iWidth : Nat := 16

/-- `TIMER_WIDTH`: 8 bits, of each of the two timers. -/
abbrev timerWidth : Nat := 8

/-- `INSN_WIDTH`: 16 bits, four fields of 4 bits. -/
abbrev insnWidth : Nat := 16

/-! ## The stack -/

/-- `STACK_DEPTH`: 16 entries. -/
abbrev stackDepth : Nat := 16

/-- The width of a stack entry: 16 bits. -/
abbrev stackWidth : Nat := 16

/-- How many values `sp` takes: 0 to `STACK_DEPTH` (10_state.md R26). -/
abbrev spValues : Nat := 17

/-! ## Display and keys -/

/-- `FB_W`: 64 columns. -/
abbrev fbW : Nat := 64

/-- `FB_H`: 32 rows. -/
abbrev fbH : Nat := 32

/-- The pixels of the grid, `FB_W * FB_H`: the bits of the `fb` output (40_display.md R123). -/
abbrev fbSize : Nat := 2048

/-- `NKEYS`: 16 keys. -/
abbrev nkeys : Nat := 16

end Sys2Proof.Machine
end

