-- ==== Sys2Proof/Word.lean ====
section
/-! DEFINITION. The words of the hardware and their names (00_scope.md R7, R9): bytes, 16-bit words, register indices. -/

namespace Sys2Proof

/-- An 8-bit value: a general register, a memory byte, a timer (00_scope.md R7). -/
abbrev Byte := BitVec (delta% Machine.regWidth)

/-- A 16-bit value: an instruction word, `pc`, `I`, a stack entry (00_scope.md R7). -/
abbrev Word := BitVec (delta% Machine.insnWidth)

/-- The 12-bit address field `nnn` of an instruction (30_encoding.md R81). -/
abbrev Addr12 := BitVec 12

/-- The index of one of the `NREGS` general registers V0 to VF (10_state.md R22). -/
abbrev RegIdx := Fin (delta% Machine.nregs)

end Sys2Proof
end

