-- ==== Sys2Proof/Config.lean ====
section
/-! DEFINITION. What an implementation fixes and the spec leaves open (00_scope.md R8): the configuration inputs, and
the free values no proof can see. -/

namespace Sys2Proof

/-- Which down key Fx0A reports when several are down (00_scope.md R8 `KEYWAIT_PICK`; 92_eei_decisions.md D10). -/
inductive KeyPick where
  /-- the smallest index of a down key -/
  | lowest
  /-- the largest index of a down key -/
  | highest
deriving DecidableEq, Repr, Inhabited

/-- The glyph image installed at 0x000..0x04F by reset: 80 bytes (00_scope.md R7, R8 `FONT`). -/
abbrev Font := Vector Byte (delta% Machine.fontSize)

/-- The configuration inputs of 10_state.md R34, "sampled at reset and held constant while the unit runs". -/
structure Inputs where
  /-- `LEGACY_INCREMENT`: Fx55 and Fx65 add x+1 to `I` (92_eei_decisions.md D8). -/
  legacyIncrement : Bool
  /-- `ANTI_FLICKER`: an erase-only Dxyn leaves `dirty` unchanged (92_eei_decisions.md D9, D26). -/
  antiFlicker : Bool
  /-- `KEYWAIT_PICK` (92_eei_decisions.md D10). -/
  keywaitPick : KeyPick
  /-- `FONT` (92_eei_decisions.md D11). -/
  font : Font
deriving DecidableEq, Repr

/-- Free value: the level of `LEGACY_INCREMENT` at the first reset, OPEN in 92_eei_decisions.md D8 (log 6). -/
opaque Config.legacyIncrement : Bool

/-- Free value: the level of `ANTI_FLICKER` at the first reset, OPEN in 92_eei_decisions.md D9 (log 6). -/
opaque Config.antiFlicker : Bool

/-- Free value: the level of `KEYWAIT_PICK` at the first reset, OPEN in 92_eei_decisions.md D10 (log 6). -/
opaque Config.keywaitPick : KeyPick

/-- Free value: the k-th byte that `RND` delivers to an executed Cxnn, an OPEN draw (92_eei_decisions.md D12;
60_exceptions.md R268; log 5). -/
opaque Config.rnd : Nat → Byte

end Sys2Proof
end

