-- ==== Sys2Proof/Machine/Font.lean ====
section
/-! DEFINITION. The default glyph image, and the configuration inputs at the first reset. -/

namespace Sys2Proof.Machine

/-- The default `FONT`: the conventional CHIP-8 hexadecimal font of 93_implementation_defined.md Part 3
(PRESUMED, from general knowledge; log 7). Five bytes a glyph, glyphs 0 to F. -/
def defaultFont : Font := #v[
  0xF0, 0x90, 0x90, 0x90, 0xF0,
  0x20, 0x60, 0x20, 0x20, 0x70,
  0xF0, 0x10, 0xF0, 0x80, 0xF0,
  0xF0, 0x10, 0xF0, 0x10, 0xF0,
  0x90, 0x90, 0xF0, 0x10, 0x10,
  0xF0, 0x80, 0xF0, 0x10, 0xF0,
  0xF0, 0x80, 0xF0, 0x90, 0xF0,
  0xF0, 0x10, 0x20, 0x40, 0x40,
  0xF0, 0x90, 0xF0, 0x90, 0xF0,
  0xF0, 0x90, 0xF0, 0x10, 0xF0,
  0xF0, 0x90, 0xF0, 0x90, 0x90,
  0xE0, 0x90, 0xE0, 0x90, 0xE0,
  0xF0, 0x80, 0x80, 0x80, 0xF0,
  0xE0, 0x90, 0x90, 0x90, 0xE0,
  0xF0, 0x80, 0xF0, 0x80, 0xF0,
  0xF0, 0x80, 0xF0, 0x80, 0x80]

/-- The configuration inputs the machine's first reset samples: the three OPEN parameters as free values (log 6)
and the default `FONT` (log 7). -/
def defaultInputs : Inputs where
  legacyIncrement := Config.legacyIncrement
  antiFlicker := Config.antiFlicker
  keywaitPick := Config.keywaitPick
  font := defaultFont

end Sys2Proof.Machine
end

