-- ==== Sys2Proof/Machine/State.lean ====
section
/-! DEFINITION. The state of the execution unit as plain data (10_state.md R20 to R38), its reset value, and the reasons
a step could stop. -/

namespace Sys2Proof.Machine

/-- Memory (10_state.md R21): the bytes that differ from the reset contents, by strictly rising address (log 9). -/
abbrev Memory := List Host.Cell

/-- The pixel grid (10_state.md R28): row y is entry y, and bit x of it is column x, so that bit `y*64 + x` of the
whole is pixel (x, y) (40_display.md R123; log 17). -/
abbrev Framebuffer := Vector (BitVec (delta% fbW)) (delta% fbH)

/-- The levels of the `NKEYS` keys (10_state.md R30): bit k is set while key k is down. -/
abbrev Keys := BitVec (delta% nkeys)

/-- Machine State, the aggregate that SAVE copies and RESTORE rewrites (10_state.md R20). -/
structure MachineState where
  /-- R21: 4096 bytes shared by fetch and data access -/
  memory : Memory
  /-- R24: the program counter -/
  pc : BitVec (delta% pcWidth)
  /-- R26: the return-address stack -/
  stack : Vector (BitVec (delta% stackWidth)) (delta% stackDepth)
  /-- R26: the count of stack entries in use, 0..16 (5 bits; log 12) -/
  sp : Fin (delta% spValues)
  /-- R25: the index register `I` -/
  i : BitVec (delta% iWidth)
  /-- R22, R23: the general registers; entry 15 is VF -/
  v : Vector Byte (delta% nregs)
  /-- R27: the delay timer `DT` -/
  dt : BitVec (delta% timerWidth)
  /-- R27: the sound timer `ST` -/
  st : BitVec (delta% timerWidth)
  /-- R28: the pixels -/
  fb : Framebuffer
  /-- R29: the render hint `draw_dirty` -/
  dirty : Bool
  /-- R30: bit k is set while key k is down -/
  keys : Keys
deriving DecidableEq, Repr

/-- The fault causes of 60_exceptions.md R241, by the names of 10_state.md R32. -/
inductive FaultCode where
  /-- code 0: no fault is latched -/
  | none
  /-- code 1: the fetch touched a byte above 0xFFF -/
  | fetchOob
  /-- code 2: a data access touched a byte above 0xFFF -/
  | dataOob
  /-- code 3: a call with sixteen entries in use -/
  | stackOverflow
  /-- code 4: a return with an empty stack -/
  | stackUnderflow
  /-- code 5: a key test with an index above 15 -/
  | keyIndex
deriving DecidableEq, Repr

/-- The fault latch of 10_state.md R32. -/
structure FaultLatch where
  /-- `fault_code` -/
  code : FaultCode
  /-- `fault_pc`: `pc` of the faulting step -/
  pc : Word
  /-- `fault_insn`: the fetched word, or 0 for FETCH_OOB -/
  insn : Word
  /-- `fault_addr`: the first out-of-range byte address, `v[x]`, or `sp` -/
  addr : Word
deriving DecidableEq, Repr

/-- The latch with no fault in it: code 0 and the other fields 0 (60_exceptions.md R244). -/
abbrev FaultLatch.clear : FaultLatch := { code := .none, pc := 0, insn := 0, addr := 0 }

/-- The result of the last step (10_state.md R36). -/
inductive Status where
  /-- an instruction executed -/
  | ok
  /-- Fx0A found no key down -/
  | wait
  /-- the word selects no instruction -/
  | unknown
  /-- a fault was raised in this step -/
  | fault
  /-- a fault was already latched -/
  | halted
deriving DecidableEq, Repr

/-- What the unit answers to the host command of the last cycle (60_exceptions.md R270; log 15). -/
inductive Response where
  /-- nothing to report -/
  | none
  /-- a RESTORE came before any SAVE, and changed nothing -/
  | noSnapshot
deriving DecidableEq, Repr

/-- The host commands of 60_exceptions.md R266. -/
inductive HostCommand where
  /-- `memory[a] <- b` if `a ≤ 0xFFF`, else no effect -/
  | loadWrite (a : Nat) (b : Byte)
  /-- `keys <- k` -/
  | setKeys (k : Keys)
  /-- `dirty <- 0` -/
  | clearDirty
  /-- the fault latch is cleared -/
  | clearFault
  /-- Machine State is copied into the snapshot -/
  | save
  /-- the snapshot is copied back and the fault latch is cleared -/
  | restore
deriving DecidableEq, Repr

/-- The input signals of one cycle (10_state.md R35; order of effect: 92_eei_decisions.md D2). `RND` is not among
them: it is the free draw `Config.rnd` (log 5). -/
structure Cycle where
  /-- `reset`, with the configuration inputs it samples (70_reset_and_hazards.md R290; log 8) -/
  reset : Option Inputs
  /-- at most one host command -/
  command : Option HostCommand
  /-- `tick`: decrement the timers once -/
  tick : Bool
  /-- `step`: execute one instruction -/
  step : Bool
deriving DecidableEq, Repr

/-- The whole state: Machine State, and what 10_state.md R31 keeps outside it. -/
structure State where
  /-- R20: the live Machine State -/
  m : MachineState
  /-- R34: the configuration inputs as sampled at reset -/
  cfg : Inputs
  /-- R32: the fault latch -/
  fault : FaultLatch
  /-- R33: `SNAP` with `snap_valid`: a snapshot is held or none is (log 13) -/
  snap : Option MachineState
  /-- R35, R36: the result of the last step -/
  status : Status
  /-- R35: the word of the last UNKNOWN step -/
  logWord : Word
  /-- R35: `pc` of the last UNKNOWN step -/
  logPc : Word
  /-- the answer to the last cycle's host command (60_exceptions.md R270) -/
  response : Response
  /-- the model's own: how many random bytes have been drawn (log 5) -/
  draws : Nat
  /-- the model's own: the host's coming cycles, the next one first (log 2, log 3) -/
  host : List Cycle
deriving DecidableEq, Repr

/-- Why the machine could stop with a fault: for no reason. Every fault of 60_exceptions.md R241 is latched in a next
state (R242), and "the unit never stops by itself" (R277), so no definition raises a value of this type (log 1). -/
inductive Fault
deriving DecidableEq, Repr

/-- Why an instruction could be refused. -/
inductive Refusal where
  /-- An instruction with no meaning yet, by its mnemonic in spec/opcode_table.json. Raised only by a refused arm of
  `exec`, of which there is none; safe, since the machine then answers no next state. -/
  | notModelled (mnemonic : String)
deriving DecidableEq, Repr

/-- Machine State right after reset (10_state.md R37; 70_reset_and_hazards.md R290). Memory lists nothing: an
unlisted address reads as the reset contents. -/
def MachineState.reset : MachineState where
  memory := []
  pc := BitVec.ofNat _ origin
  stack := Vector.replicate _ 0
  sp := 0
  i := 0
  v := Vector.replicate _ 0
  dt := 0
  st := 0
  fb := Vector.replicate _ 0
  dirty := false
  keys := 0

/-- The machine right after reset (10_state.md R37; 70_reset_and_hazards.md R290), with nothing scheduled by the
host and no random byte drawn. -/
def State.reset : State where
  m := MachineState.reset
  cfg := defaultInputs
  fault := FaultLatch.clear
  snap := none
  status := .ok
  logWord := 0
  logPc := 0
  response := .none
  draws := 0
  host := []

end Sys2Proof.Machine
end

