-- ==== Sys2Proof/Machine/Operands.lean ====
section
/-! DEFINITION. The operand forms: registers, immediates, addresses, the one data addressing mode, and the ranges
the memory port checks (30_encoding.md R82; 43_index_memory.md R186; 20_memory.md R56). -/

namespace Sys2Proof.Machine

/-- Register VF, `v[15]` (10_state.md R23). -/
abbrev vf : RegIdx := 15

/-- `zext_16(nnn)`: an address field written to `pc` or `I` (30_encoding.md R82). -/
def zextAddr (nnn : Addr12) : Word := nnn.setWidth _

/-- A byte as a 16-bit value (00_scope.md R10 `zext_16`). -/
def zextByte (b : Byte) : Word := b.setWidth _

/-- The register that a count 0..15 names, as Fx55 and Fx65 count through `v[0..x]` (43_index_memory.md R184). -/
def regAt (k : Nat) : RegIdx := ⟨k % (delta% nregs), Nat.mod_lt k (by decide)⟩

/-- `v[x]` (00_scope.md R10). -/
def State.reg (s : State) (x : RegIdx) : Byte := s.m.v[x]

/-- The effective address of byte k of a data access: `I + k` on naturals (43_index_memory.md R186). -/
def State.dataAddr (s : State) (k : Nat) : Nat := s.m.i.toNat + k

/-- `InRange(a, n)`: true iff `n = 0` or `a + n - 1 ≤ 0xFFF` (00_scope.md R10). -/
def inRange (a n : Nat) : Bool := n == 0 || decide (a + n - 1 ≤ maxAddr)

/-- Whether a data instruction with `n` accesses keeps within memory (20_memory.md R56). -/
def State.dataInRange (s : State) (n : Nat) : Bool := inRange (s.dataAddr 0) n

/-- The lowest address of an out-of-range data access above 0xFFF: `max(I, 0x1000)` (20_memory.md R56). -/
def State.dataOobAddr (s : State) : Word := BitVec.ofNat _ (max s.m.i.toNat memSize)

/-- The first byte of an out-of-range fetch above 0xFFF (20_memory.md R53). -/
def State.fetchOobAddr (s : State) : Word := if s.m.pc.toNat > maxAddr then s.m.pc else s.m.pc + 1

/-- The value of `sp` as a 16-bit word, as the fault latch records it (60_exceptions.md R241). -/
def State.spWord (s : State) : Word := BitVec.ofNat _ s.m.sp.val

/-- Whether key k is down in the keys the step samples (44_timers_keys.md R200; 92_eei_decisions.md D29; log 14). -/
def State.keyDown (s : State) (k : Nat) : Bool := s.m.keys.getLsbD k

/-- The down key Fx0A reports: the smallest index of a down key with LOWEST, the largest with HIGHEST
(44_timers_keys.md R203). It is asked for only when some key is down, so the default index is never used. -/
def pickKey (pick : KeyPick) (keys : Keys) : Nat :=
  match pick with
  | .lowest => ((List.range nkeys).find? (fun k => keys.getLsbD k)).getD 0
  | .highest => ((List.range nkeys).reverse.find? (fun k => keys.getLsbD k)).getD 0

end Sys2Proof.Machine
end

