-- ==== Sys2Proof/Machine/Flags.lean ====
section
/-! DEFINITION. Every flag the spec computes into VF (10_state.md R23). -/

namespace Sys2Proof.Machine

/-- A flag as the byte VF holds: 1 or 0. -/
def flagByte (c : Bool) : Byte := if c then 1 else 0

/-- 8xy4: the exact sum passes 255 (42_alu.md R166). -/
def carryFlag (a b : Byte) : Byte := flagByte (decide (a.toNat + b.toNat > 255))

/-- 8xy5: 1 means no borrow; 0 iff the subtrahend is the greater (42_alu.md R167). -/
def notBorrowFlag (a b : Byte) : Byte := flagByte (!decide (b.toNat > a.toNat))

/-- 8xy6: the bit shifted out, old bit 0 (42_alu.md R168). -/
def shiftedOutFlag (a : Byte) : Byte := a &&& 1

/-- Fx1E: the exact sum of `I` and the register passes 0xFFF (43_index_memory.md R181). -/
def indexOverflowFlag (i : Word) (a : Byte) : Byte := flagByte (decide (i.toNat + a.toNat > maxAddr))

/-- Dxyn: a set source bit landed on a set pixel (40_display.md R121; VF is 0 without one, log 23). -/
def collisionFlag (coll : Bool) : Byte := flagByte coll

end Sys2Proof.Machine
end

