-- ==== Sys2Proof/Machine/Ops.lean ====
section
/-! DEFINITION. The named operations over memory and registers, the movements of `pc`, and raising and clearing a
fault. -/

namespace Sys2Proof.Machine

/-! ## Memory (20_memory.md R50 to R64) -/

/-- What an address that memory does not list reads as: the reset contents, `FONT` from `FONT_BASE` (0x000..0x04F) and 0
elsewhere (10_state.md R37; log 9). -/
def unlisted (font : Font) (a : Nat) : Byte := 
  if h : fontBase ≤ a ∧ a - fontBase < fontSize then font[a - fontBase]'h.2 else 0

/-- The byte at an address. -/
def Memory.read (font : Font) (a : Nat) : Memory → Byte
  | [] => unlisted font a
  | (k, c) :: rest => if k = a then c else Memory.read font a rest

/-- The memory with a byte stored at an address. The list stays strictly rising, and a byte that an unlisted address
reads as is not listed. -/
def Memory.write (font : Font) (a : Nat) (b : Byte) : Memory → Memory
  | [] => if b = unlisted font a then [] else [(a, b)]
  | (k, c) :: rest =>
    if a < k then
      if b = unlisted font a then (k, c) :: rest else (a, b) :: (k, c) :: rest
    else if a = k then
      if b = unlisted font a then rest else (a, b) :: rest
    else (k, c) :: Memory.write font a b rest

/-- The canonical form of memory: addresses exist and rise strictly, and no entry equals what an unlisted address
reads as (log 9). -/
def Memory.wf (font : Font) : Memory → Bool
  | [] => true
  | (k, c) :: rest =>
    decide (k ≤ maxAddr) && decide (c ≠ unlisted font k) && rest.all (fun e => decide (k < e.1)) && Memory.wf font rest

/-- `MemRead(a, 1)`: the byte at address a (20_memory.md R56). -/
def State.readByte (s : State) (a : Nat) : Byte := Memory.read s.cfg.font a s.m.memory

/-- `MemWrite(a, 1, b)`: store a byte at address a (20_memory.md R56). -/
def State.writeByte (s : State) (a : Nat) (b : Byte) : State :=
  { s with m := { s.m with memory := Memory.write s.cfg.font a b s.m.memory } }

/-- The bytes at n consecutive ascending addresses from a (20_memory.md R55). -/
def State.readBytes (s : State) (a : Nat) : Nat → List Byte
  | 0 => []
  | n + 1 => s.readByte a :: s.readBytes (a + 1) n

/-- Bytes stored at consecutive ascending addresses from a (20_memory.md R55). -/
def State.writeBytes (s : State) (a : Nat) : List Byte → State
  | [] => s
  | b :: bs => (s.writeByte a b).writeBytes (a + 1) bs

/-! ## Registers (00_scope.md R10: a write stores the value reduced to the register's width) -/

/-- `v[x] <- b`. -/
def State.setReg (s : State) (x : RegIdx) (b : Byte) : State :=
  { s with m := { s.m with v := s.m.v.set x.val b } }

/-- `pc <- target`. -/
def State.setPc (s : State) (w : Word) : State := { s with m := { s.m with pc := w } }

/-- `I <- w`. -/
def State.setI (s : State) (w : Word) : State := { s with m := { s.m with i := w } }

/-- `DT <- b`. -/
def State.setDt (s : State) (b : Byte) : State := { s with m := { s.m with dt := b } }

/-- `ST <- b`. -/
def State.setSt (s : State) (b : Byte) : State := { s with m := { s.m with st := b } }

/-- `fb <- f`. -/
def State.setFb (s : State) (f : Framebuffer) : State := { s with m := { s.m with fb := f } }

/-- `dirty <- d`. -/
def State.setDirty (s : State) (d : Bool) : State := { s with m := { s.m with dirty := d } }

/-- `keys <- k`. -/
def State.setKeys (s : State) (k : Keys) : State := { s with m := { s.m with keys := k } }

/-- `stack[j] <- w`. -/
def State.setStack (s : State) (j : Fin (delta% stackDepth)) (w : Word) : State :=
  { s with m := { s.m with stack := s.m.stack.set j.val w } }

/-- `sp <- k`. -/
def State.setSp (s : State) (k : Fin (delta% spValues)) : State := { s with m := { s.m with sp := k } }

/-- `status <- r`. -/
def State.setStatus (s : State) (r : Status) : State := { s with status := r }

/-- `v[k] <- MemRead(a + k, 1)` for k in 0..n-1, in ascending order (43_index_memory.md R185). -/
def State.loadRegs (s : State) (a : Nat) : Nat → State
  | 0 => s
  | k + 1 => (s.loadRegs a k).setReg (regAt k) (s.readByte (a + k))

/-- `MemWrite(a + k, 1, v[k])` for k in 0..n-1, in ascending order (43_index_memory.md R184). -/
def State.storeRegs (s : State) (a : Nat) : Nat → State
  | 0 => s
  | k + 1 => (s.storeRegs a k).writeByte (a + k) (s.reg (regAt k))

/-! ## Movements of `pc` (30_encoding.md R84; all sums modulo 2^16) -/

/-- "Advance": `pc <- pc + 2`. -/
def State.advance (s : State) : State := s.setPc (s.m.pc + 2)

/-- A conditional skip: `pc <- pc + 4` if the condition holds, else `pc <- pc + 2`. -/
def State.skipIf (s : State) (c : Bool) : State := s.setPc (s.m.pc + if c then 4 else 2)

/-- The optional `I <- (I + k) mod 2^16` of Fx55 and Fx65 (43_index_memory.md R184, R185). -/
def State.legacyIncrement (s : State) (k : Nat) : State :=
  s.setI (if s.cfg.legacyIncrement then s.m.i + BitVec.ofNat _ k else s.m.i)

/-! ## Faults (60_exceptions.md R242, R244) -/

/-- `raise Fault(code, addr)`, raised before the first write of the step: the latch is written, status is FAULT, and
Machine State stays as it was, so `pc` still addresses the faulting instruction (60_exceptions.md R242). `insn` is the
fetched word; FETCH_OOB records 0 instead. -/
def State.raise (s : State) (code : FaultCode) (insn addr : Word) : State :=
  { s with
    fault := { code := code, pc := s.m.pc, insn := if code = .fetchOob then 0 else insn, addr := addr }
    status := .fault }

/-- The return from a fault: the latch is cleared and nothing else changes (60_exceptions.md R244). -/
def State.clearFault (s : State) : State := { s with fault := FaultLatch.clear }

end Sys2Proof.Machine
end

