-- ==== Sys2Proof/Machine/Alu.lean ====
section
/-! DEFINITION. Register loads and 8-bit arithmetic (42_alu.md R160 to R170). Where an instruction writes a flag, the
flag is written first and the result reads the registers after that write (92_eei_decisions.md D22; log 19). -/

namespace Sys2Proof.Machine

/-- LD Vx, nn, 6xnn (42_alu.md R160). -/
def execLdImm (x : RegIdx) (nn : Byte) (s : State) : Host.Outcome State Fault Refusal :=
  .next (s.setReg x nn).advance

/-- ADD Vx, nn, 7xnn: no carry is recorded (42_alu.md R161). -/
def execAddImm (x : RegIdx) (nn : Byte) (s : State) : Host.Outcome State Fault Refusal :=
  .next (s.setReg x (s.reg x + nn)).advance

/-- LD Vx, Vy, 8xy0 (42_alu.md R162). -/
def execLdReg (x y : RegIdx) (s : State) : Host.Outcome State Fault Refusal :=
  .next (s.setReg x (s.reg y)).advance

/-- AND Vx, Vy, 8xy2 (42_alu.md R163). -/
def execAndReg (x y : RegIdx) (s : State) : Host.Outcome State Fault Refusal :=
  .next (s.setReg x (s.reg x &&& s.reg y)).advance

/-- XOR Vx, Vy, 8xy3 (42_alu.md R164). -/
def execXorReg (x y : RegIdx) (s : State) : Host.Outcome State Fault Refusal :=
  .next (s.setReg x (s.reg x ^^^ s.reg y)).advance

/-- ADD Vx, Vy, 8xy4 (42_alu.md R166). -/
def execAddReg (x y : RegIdx) (s : State) : Host.Outcome State Fault Refusal :=
  let s1 := s.setReg vf (carryFlag (s.reg x) (s.reg y))
  .next (s1.setReg x (s1.reg x + s1.reg y)).advance

/-- SUB Vx, Vy, 8xy5 (42_alu.md R167). -/
def execSubReg (x y : RegIdx) (s : State) : Host.Outcome State Fault Refusal :=
  let s1 := s.setReg vf (notBorrowFlag (s.reg x) (s.reg y))
  .next (s1.setReg x (s1.reg x - s1.reg y)).advance

/-- SHR Vx, Vy, 8xy6: Vy is neither read nor copied (42_alu.md R168). -/
def execShr (x : RegIdx) (s : State) : Host.Outcome State Fault Refusal :=
  let s1 := s.setReg vf (shiftedOutFlag (s.reg x))
  .next (s1.setReg x (s1.reg x >>> 1)).advance

/-- RND Vx, nn, Cxnn: the draw of this step is a free value, and the next draw is another (42_alu.md R169;
60_exceptions.md R268; log 5). -/
def execRnd (x : RegIdx) (nn : Byte) (s : State) : Host.Outcome State Fault Refusal :=
  .next { (s.setReg x (Config.rnd s.draws &&& nn)).advance with draws := s.draws + 1 }

end Sys2Proof.Machine
end

