-- ==== Sys2Proof/Syntax.lean ====
section
/-! DEFINITION. The instructions: one constructor per row of the opcode map (30_encoding.md R87). -/

namespace Sys2Proof

/-- The 29 instructions of 30_encoding.md R87, in the table's order.
`x` and `y` are register indices, `nn` an 8-bit immediate, `nnn` a 12-bit address (R81).
`n` is an unsigned count of sprite rows, 0..15 (R82); `Instr.WellFormed` states the bound.
`ign` holds the bits the decoder ignores (R88), so that the fetched word can be told from the instruction
(10_state.md R32 `fault_insn`; log 10); no meaning reads it otherwise. -/
inductive Instr where
  /-- 0xyz0: clear the display. `ign` is `insn[11:4]`; the canonical word 00E0 has 0x0E there. -/
  | cls (ign : BitVec 8)
  /-- 0xyzE: return from a subroutine. `ign` is `insn[11:4]`; the canonical word 00EE has 0x0E there. -/
  | ret (ign : BitVec 8)
  /-- 1nnn: jump. -/
  | jp (nnn : Addr12)
  /-- 2nnn: call a subroutine. -/
  | call (nnn : Addr12)
  /-- 3xnn: skip if equal to an immediate. -/
  | seImm (x : RegIdx) (nn : Byte)
  /-- 4xnn: skip if not equal to an immediate. -/
  | sneImm (x : RegIdx) (nn : Byte)
  /-- 6xnn: load an immediate. -/
  | ldImm (x : RegIdx) (nn : Byte)
  /-- 7xnn: add an immediate. -/
  | addImm (x : RegIdx) (nn : Byte)
  /-- 8xy0: copy a register. -/
  | ldReg (x y : RegIdx)
  /-- 8xy2: bitwise AND. -/
  | andReg (x y : RegIdx)
  /-- 8xy3: bitwise exclusive OR. -/
  | xorReg (x y : RegIdx)
  /-- 8xy4: add registers with carry. -/
  | addReg (x y : RegIdx)
  /-- 8xy5: subtract registers with not-borrow. -/
  | subReg (x y : RegIdx)
  /-- 8xy6: shift right by one; the y field is encoded but ignored. -/
  | shr (x y : RegIdx)
  /-- 9xyk: skip if registers differ. `ign` is the ignored low nibble k; the canonical word has 0 there. -/
  | sneReg (x y : RegIdx) (ign : BitVec 4)
  /-- Annn: load the index register. -/
  | ldI (nnn : Addr12)
  /-- Cxnn: random byte masked by an immediate. -/
  | rnd (x : RegIdx) (nn : Byte)
  /-- Dxyn: draw a sprite of `n` rows. -/
  | drw (x y : RegIdx) (n : Nat)
  /-- Ex9E: skip if a key is down. -/
  | skp (x : RegIdx)
  /-- ExA1: skip if a key is up. -/
  | sknp (x : RegIdx)
  /-- Fx07: read the delay timer. -/
  | ldVDt (x : RegIdx)
  /-- Fx0A: wait for a key. -/
  | ldVK (x : RegIdx)
  /-- Fx15: set the delay timer. -/
  | ldDtV (x : RegIdx)
  /-- Fx18: set the sound timer. -/
  | ldStV (x : RegIdx)
  /-- Fx1E: add a register to the index. -/
  | addI (x : RegIdx)
  /-- Fx29: point the index at a font glyph. -/
  | ldF (x : RegIdx)
  /-- Fx33: store binary-coded decimal. -/
  | ldB (x : RegIdx)
  /-- Fx55: store registers V0..Vx. -/
  | ldMemV (x : RegIdx)
  /-- Fx65: load registers V0..Vx. -/
  | ldVMem (x : RegIdx)
deriving DecidableEq, Repr

end Sys2Proof
end

