-- ==== Sys2Proof/WellFormed.lean ====
section
/-! DEFINITION. Which instruction terms the encoding can hold (30_encoding.md R81, R82). -/

namespace Sys2Proof

/-- Every operand fits its field. Register indices, immediates and addresses fit by their types; the row count of
Dxyn is a natural that must lie in 0..15 (30_encoding.md R82: "`n` is an unsigned count 0..15"; log 11). -/
abbrev Instr.WellFormed : Instr → Prop
  | .drw _ _ n => n ≤ 15
  | .cls _ | .ret _ | .jp _ | .call _ | .seImm _ _ | .sneImm _ _ | .ldImm _ _ | .addImm _ _ | .ldReg _ _
  | .andReg _ _ | .xorReg _ _ | .addReg _ _ | .subReg _ _ | .shr _ _ | .sneReg _ _ _ | .ldI _ | .rnd _ _
  | .skp _ | .sknp _ | .ldVDt _ | .ldVK _ | .ldDtV _ | .ldStV _ | .addI _ | .ldF _ | .ldB _ | .ldMemV _
  | .ldVMem _ => True

end Sys2Proof
end

