-- ==== Sys2Proof/Decode.lean ====
section
/-! DEFINITION. Decoding and encoding of the 16-bit instruction words (30_encoding.md R80 to R90). -/

namespace Sys2Proof

/-- Why a word selects no instruction: the family of the unknown encodings of 30_encoding.md R89, or too few bytes. -/
inductive DecodeError where
  /-- `0xyk` with k neither 0x0 nor 0xE -/
  | unknownFamily0
  /-- all of `5xxx` -/
  | unknownFamily5
  /-- `8xyk` with k not in 0, 2, 3, 4, 5, 6 -/
  | unknownFamily8
  /-- all of `Bxxx` -/
  | unknownFamilyB
  /-- `Exkk` with kk neither 0x9E nor 0xA1 -/
  | unknownFamilyE
  /-- `Fxkk` with kk not one of the nine listed low bytes -/
  | unknownFamilyF
  /-- fewer than two bytes; the fetch never gives this, since it always reads two (20_memory.md R53) -/
  | truncated
deriving DecidableEq, Repr

/-! ## Fields (30_encoding.md R81; 00_scope.md R9: a slice is an unsigned value) -/

/-- `f`, the family: `insn[15:12]`. -/
def fieldF (w : Word) : Nat := w.toNat / 0x1000

/-- `x`: `insn[11:8]`. -/
def fieldX (w : Word) : RegIdx := ⟨w.toNat / 0x100 % 0x10, Nat.mod_lt _ (by decide)⟩

/-- `y`: `insn[7:4]`. -/
def fieldY (w : Word) : RegIdx := ⟨w.toNat / 0x10 % 0x10, Nat.mod_lt _ (by decide)⟩

/-- `n`: `insn[3:0]`. -/
def fieldN (w : Word) : Nat := w.toNat % 0x10

/-- `nn`: `insn[7:0]`. -/
def fieldNN (w : Word) : Byte := BitVec.ofNat _ (w.toNat % 0x100)

/-- `nnn`: `insn[11:0]`. -/
def fieldNNN (w : Word) : Addr12 := BitVec.ofNat _ (w.toNat % 0x1000)

/-- The bits `insn[11:4]`, ignored in family 0x0 (30_encoding.md R86, R88; 92_eei_decisions.md D18; log 20). -/
def fieldIgn0 (w : Word) : BitVec 8 := BitVec.ofNat _ (w.toNat / 0x10 % 0x100)

/-- The bits `insn[3:0]`, ignored in family 0x9 (30_encoding.md R88). -/
def fieldIgn9 (w : Word) : BitVec 4 := BitVec.ofNat _ (w.toNat % 0x10)

/-! ## Decoding (30_encoding.md R85, R86) -/

/-- Second-level lookup of family 0x0, on the low nibble. -/
def decodeFamily0 (w : Word) : Except DecodeError Instr :=
  match fieldN w with
  | 0x0 => .ok (.cls (fieldIgn0 w))
  | 0xE => .ok (.ret (fieldIgn0 w))
  | _ => .error .unknownFamily0

/-- Second-level lookup of family 0x8, on the low nibble. -/
def decodeFamily8 (w : Word) : Except DecodeError Instr :=
  match fieldN w with
  | 0x0 => .ok (.ldReg (fieldX w) (fieldY w))
  | 0x2 => .ok (.andReg (fieldX w) (fieldY w))
  | 0x3 => .ok (.xorReg (fieldX w) (fieldY w))
  | 0x4 => .ok (.addReg (fieldX w) (fieldY w))
  | 0x5 => .ok (.subReg (fieldX w) (fieldY w))
  | 0x6 => .ok (.shr (fieldX w) (fieldY w))
  | _ => .error .unknownFamily8

/-- Second-level lookup of family 0xE, on the low byte. -/
def decodeFamilyE (w : Word) : Except DecodeError Instr :=
  match (fieldNN w).toNat with
  | 0x9E => .ok (.skp (fieldX w))
  | 0xA1 => .ok (.sknp (fieldX w))
  | _ => .error .unknownFamilyE

/-- Second-level lookup of family 0xF, on the low byte and not on the low nibble (90_conflicts.md C1). -/
def decodeFamilyF (w : Word) : Except DecodeError Instr :=
  match (fieldNN w).toNat with
  | 0x07 => .ok (.ldVDt (fieldX w))
  | 0x0A => .ok (.ldVK (fieldX w))
  | 0x15 => .ok (.ldDtV (fieldX w))
  | 0x18 => .ok (.ldStV (fieldX w))
  | 0x1E => .ok (.addI (fieldX w))
  | 0x29 => .ok (.ldF (fieldX w))
  | 0x33 => .ok (.ldB (fieldX w))
  | 0x55 => .ok (.ldMemV (fieldX w))
  | 0x65 => .ok (.ldVMem (fieldX w))
  | _ => .error .unknownFamilyF

/-- `Decode(insn)` of 30_encoding.md R86, total on all 65536 words; an unknown word is rejected by name. -/
def decodeWord (w : Word) : Except DecodeError Instr :=
  match fieldF w with
  | 0x0 => decodeFamily0 w
  | 0x1 => .ok (.jp (fieldNNN w))
  | 0x2 => .ok (.call (fieldNNN w))
  | 0x3 => .ok (.seImm (fieldX w) (fieldNN w))
  | 0x4 => .ok (.sneImm (fieldX w) (fieldNN w))
  | 0x5 => .error .unknownFamily5
  | 0x6 => .ok (.ldImm (fieldX w) (fieldNN w))
  | 0x7 => .ok (.addImm (fieldX w) (fieldNN w))
  | 0x8 => decodeFamily8 w
  | 0x9 => .ok (.sneReg (fieldX w) (fieldY w) (fieldIgn9 w))
  | 0xA => .ok (.ldI (fieldNNN w))
  | 0xB => .error .unknownFamilyB
  | 0xC => .ok (.rnd (fieldX w) (fieldNN w))
  | 0xD => .ok (.drw (fieldX w) (fieldY w) (fieldN w))
  | 0xE => decodeFamilyE w
  | _ => decodeFamilyF w

/-- The word of two bytes, the high byte first (20_memory.md R53, R54). -/
def wordOfBytes (hi lo : Byte) : Word := BitVec.ofNat _ (hi.toNat * 0x100 + lo.toNat)

/-- The high byte of a word, stored at the lower address. -/
def highByte (w : Word) : Byte := BitVec.ofNat _ (w.toNat / 0x100)

/-- The low byte of a word, stored at the higher address. -/
def lowByte (w : Word) : Byte := BitVec.ofNat _ (w.toNat % 0x100)

/-- Decoding from bytes: a decoder always consumes two (30_encoding.md R80). -/
def decode : List Byte → Except DecodeError (Instr × List Byte)
  | hi :: lo :: rest =>
    match decodeWord (wordOfBytes hi lo) with
    | .ok i => .ok (i, rest)
    | .error e => .error e
  | _ => .error .truncated

/-- The bytes, as stored, of the word whose low `nbits` bits are those of `w` and whose other bits are 0, in
the bit numbering of spec/opcode_table.json. -/
def tableBytes (nbits w : Nat) : List Byte :=
  [highByte (BitVec.ofNat _ (w % 2 ^ nbits)), lowByte (BitVec.ofNat _ (w % 2 ^ nbits))]

/-- What the decoder reads from an instruction numbered as spec/opcode_table.json numbers its bits. -/
def decodeTableWord (nbits w : Nat) : Option Instr :=
  match decode (tableBytes nbits w) with
  | .ok (i, _) => some i
  | .error _ => none

/-! ## Encoding, from the formats of 30_encoding.md R81 and the matches of R87 -/

/-- Format `NNN`: a family nibble and a 12-bit address. -/
def encodeNNN (f : Nat) (nnn : Addr12) : Word := BitVec.ofNat _ (f * 0x1000 + nnn.toNat)

/-- Formats `XNN` and `XSS`: a family nibble, a register and an 8-bit immediate or sub-selector. -/
def encodeXNN (f : Nat) (x : RegIdx) (nn : Byte) : Word := BitVec.ofNat _ (f * 0x1000 + x.val * 0x100 + nn.toNat)

/-- Formats `XYS`, `XY` and `XYN`: a family nibble, two registers and a last nibble. -/
def encodeXYN (f : Nat) (x y : RegIdx) (n : Nat) : Word :=
  BitVec.ofNat _ (f * 0x1000 + x.val * 0x100 + y.val * 0x10 + n)

/-- Format `Z`: family 0x0, eight ignored bits and a sub-selector. -/
def encodeZ (ign : BitVec 8) (s : Nat) : Word := BitVec.ofNat _ (ign.toNat * 0x10 + s)

/-- The word of an instruction. A term that is not well formed (a row count above 15) loses its high bits. -/
def encode : Instr → Word
  | .cls ign => encodeZ ign 0x0
  | .ret ign => encodeZ ign 0xE
  | .jp nnn => encodeNNN 0x1 nnn
  | .call nnn => encodeNNN 0x2 nnn
  | .seImm x nn => encodeXNN 0x3 x nn
  | .sneImm x nn => encodeXNN 0x4 x nn
  | .ldImm x nn => encodeXNN 0x6 x nn
  | .addImm x nn => encodeXNN 0x7 x nn
  | .ldReg x y => encodeXYN 0x8 x y 0x0
  | .andReg x y => encodeXYN 0x8 x y 0x2
  | .xorReg x y => encodeXYN 0x8 x y 0x3
  | .addReg x y => encodeXYN 0x8 x y 0x4
  | .subReg x y => encodeXYN 0x8 x y 0x5
  | .shr x y => encodeXYN 0x8 x y 0x6
  | .sneReg x y ign => encodeXYN 0x9 x y ign.toNat
  | .ldI nnn => encodeNNN 0xA nnn
  | .rnd x nn => encodeXNN 0xC x nn
  | .drw x y n => encodeXYN 0xD x y (n % 0x10)
  | .skp x => encodeXNN 0xE x 0x9E
  | .sknp x => encodeXNN 0xE x 0xA1
  | .ldVDt x => encodeXNN 0xF x 0x07
  | .ldVK x => encodeXNN 0xF x 0x0A
  | .ldDtV x => encodeXNN 0xF x 0x15
  | .ldStV x => encodeXNN 0xF x 0x18
  | .addI x => encodeXNN 0xF x 0x1E
  | .ldF x => encodeXNN 0xF x 0x29
  | .ldB x => encodeXNN 0xF x 0x33
  | .ldMemV x => encodeXNN 0xF x 0x55
  | .ldVMem x => encodeXNN 0xF x 0x65

/-! ## The opcode map (30_encoding.md R87) -/

/-- A row of the opcode map: the instruction's mnemonic, and the bits that select it. "A word w selects a row iff
`w & mask == match`"; the match is the field `pattern` here. -/
structure OpcodeRow where
  /-- the mnemonic, as R87 and R96 spell it -/
  mnemonic : String
  /-- the `match` of R87 -/
  pattern : Word
  /-- the `mask` of R87 -/
  mask : Word
deriving DecidableEq, Repr

/-- The 29 rows of the opcode map, in the table's order. -/
def opcodeRows : List OpcodeRow := [
  ⟨"CLS", 0x0000, 0xF00F⟩, ⟨"RET", 0x000E, 0xF00F⟩, ⟨"JP nnn", 0x1000, 0xF000⟩, ⟨"CALL nnn", 0x2000, 0xF000⟩,
  ⟨"SE Vx, nn", 0x3000, 0xF000⟩, ⟨"SNE Vx, nn", 0x4000, 0xF000⟩, ⟨"LD Vx, nn", 0x6000, 0xF000⟩,
  ⟨"ADD Vx, nn", 0x7000, 0xF000⟩, ⟨"LD Vx, Vy", 0x8000, 0xF00F⟩, ⟨"AND Vx, Vy", 0x8002, 0xF00F⟩,
  ⟨"XOR Vx, Vy", 0x8003, 0xF00F⟩, ⟨"ADD Vx, Vy", 0x8004, 0xF00F⟩, ⟨"SUB Vx, Vy", 0x8005, 0xF00F⟩,
  ⟨"SHR Vx, Vy", 0x8006, 0xF00F⟩, ⟨"SNE Vx, Vy", 0x9000, 0xF000⟩, ⟨"LD I, nnn", 0xA000, 0xF000⟩,
  ⟨"RND Vx, nn", 0xC000, 0xF000⟩, ⟨"DRW Vx, Vy, n", 0xD000, 0xF000⟩, ⟨"SKP Vx", 0xE09E, 0xF0FF⟩,
  ⟨"SKNP Vx", 0xE0A1, 0xF0FF⟩, ⟨"LD Vx, DT", 0xF007, 0xF0FF⟩, ⟨"LD Vx, K", 0xF00A, 0xF0FF⟩,
  ⟨"LD DT, Vx", 0xF015, 0xF0FF⟩, ⟨"LD ST, Vx", 0xF018, 0xF0FF⟩, ⟨"ADD I, Vx", 0xF01E, 0xF0FF⟩,
  ⟨"LD F, Vx", 0xF029, 0xF0FF⟩, ⟨"LD B, Vx", 0xF033, 0xF0FF⟩, ⟨"LD [I], Vx", 0xF055, 0xF0FF⟩,
  ⟨"LD Vx, [I]", 0xF065, 0xF0FF⟩]

/-- The row an instruction belongs to. -/
def Instr.row : Instr → OpcodeRow
  | .cls _ => ⟨"CLS", 0x0000, 0xF00F⟩
  | .ret _ => ⟨"RET", 0x000E, 0xF00F⟩
  | .jp _ => ⟨"JP nnn", 0x1000, 0xF000⟩
  | .call _ => ⟨"CALL nnn", 0x2000, 0xF000⟩
  | .seImm _ _ => ⟨"SE Vx, nn", 0x3000, 0xF000⟩
  | .sneImm _ _ => ⟨"SNE Vx, nn", 0x4000, 0xF000⟩
  | .ldImm _ _ => ⟨"LD Vx, nn", 0x6000, 0xF000⟩
  | .addImm _ _ => ⟨"ADD Vx, nn", 0x7000, 0xF000⟩
  | .ldReg _ _ => ⟨"LD Vx, Vy", 0x8000, 0xF00F⟩
  | .andReg _ _ => ⟨"AND Vx, Vy", 0x8002, 0xF00F⟩
  | .xorReg _ _ => ⟨"XOR Vx, Vy", 0x8003, 0xF00F⟩
  | .addReg _ _ => ⟨"ADD Vx, Vy", 0x8004, 0xF00F⟩
  | .subReg _ _ => ⟨"SUB Vx, Vy", 0x8005, 0xF00F⟩
  | .shr _ _ => ⟨"SHR Vx, Vy", 0x8006, 0xF00F⟩
  | .sneReg _ _ _ => ⟨"SNE Vx, Vy", 0x9000, 0xF000⟩
  | .ldI _ => ⟨"LD I, nnn", 0xA000, 0xF000⟩
  | .rnd _ _ => ⟨"RND Vx, nn", 0xC000, 0xF000⟩
  | .drw _ _ _ => ⟨"DRW Vx, Vy, n", 0xD000, 0xF000⟩
  | .skp _ => ⟨"SKP Vx", 0xE09E, 0xF0FF⟩
  | .sknp _ => ⟨"SKNP Vx", 0xE0A1, 0xF0FF⟩
  | .ldVDt _ => ⟨"LD Vx, DT", 0xF007, 0xF0FF⟩
  | .ldVK _ => ⟨"LD Vx, K", 0xF00A, 0xF0FF⟩
  | .ldDtV _ => ⟨"LD DT, Vx", 0xF015, 0xF0FF⟩
  | .ldStV _ => ⟨"LD ST, Vx", 0xF018, 0xF0FF⟩
  | .addI _ => ⟨"ADD I, Vx", 0xF01E, 0xF0FF⟩
  | .ldF _ => ⟨"LD F, Vx", 0xF029, 0xF0FF⟩
  | .ldB _ => ⟨"LD B, Vx", 0xF033, 0xF0FF⟩
  | .ldMemV _ => ⟨"LD [I], Vx", 0xF055, 0xF0FF⟩
  | .ldVMem _ => ⟨"LD Vx, [I]", 0xF065, 0xF0FF⟩

end Sys2Proof
end

