-- ==== Sys2Proof/Machine/Display.lean ====
section
/-! DEFINITION. The display instructions CLS and DRW (40_display.md R120 to R122). -/

namespace Sys2Proof.Machine

/-- A place of the pixel grid: row `py`, column `px` (10_state.md R28). -/
abbrev Pixel := Fin (delta% fbH) × Fin (delta% fbW)

/-- The place that coordinates address, each wrapped on its own: row `y mod FB_H`, column `x mod FB_W`
(40_display.md R121; log 22). -/
def wrapPixel (x y : Nat) : Pixel :=
  (⟨y % (delta% fbH), Nat.mod_lt y (by decide)⟩, ⟨x % (delta% fbW), Nat.mod_lt x (by decide)⟩)

/-- `fb[py][px]`. -/
def pixelAt (fb : Framebuffer) (p : Pixel) : Bool := fb[p.1].getLsbD p.2.val

/-- `fb[py][px] <- fb[py][px] ^ 1`. -/
def flipPixel (fb : Framebuffer) (p : Pixel) : Framebuffer :=
  fb.set p.1.val (fb[p.1] ^^^ (BitVec.ofNat (delta% fbW) 1 <<< p.2.val))

/-- The pixels one sprite byte addresses, columns c = 0..7 in order: bit 7 - c of the byte, at column
`(x0 + c) mod 64` of row `y mod 32` (40_display.md R121; bit order: log 21). -/
def spriteRow (x0 y : Nat) (b : Byte) : List Pixel :=
  (List.range 8).filterMap fun c =>
    if b.getLsbD (7 - c) then some (wrapPixel (x0 + c) y) else none

/-- The pixels a whole sprite addresses, row by row from the top: row r is at `(y0 + r) mod 32`. -/
def spritePixels (x0 y0 : Nat) : List Byte → List Pixel
  | [] => []
  | b :: rows => spriteRow x0 y0 b ++ spritePixels x0 (y0 + 1) rows

/-- What Dxyn accumulates while it draws (40_display.md R121). -/
structure Drawing where
  /-- the pixel grid so far -/
  fb : Framebuffer
  /-- `coll`: a set source bit landed on a set pixel -/
  coll : Bool
  /-- `set_bits`: how many set source bits were drawn -/
  setBits : Nat
  /-- `hits`: how many of them landed on a set pixel -/
  hits : Nat
deriving DecidableEq, Repr

/-- One set source bit drawn: count it, note a collision, flip the pixel. -/
def plotPixel (d : Drawing) (p : Pixel) : Drawing where
  fb := flipPixel d.fb p
  coll := d.coll || pixelAt d.fb p
  setBits := d.setBits + 1
  hits := if pixelAt d.fb p then d.hits + 1 else d.hits

/-- All set source bits drawn in order onto a grid. -/
def drawPixels (fb : Framebuffer) (ps : List Pixel) : Drawing :=
  ps.foldl plotPixel { fb := fb, coll := false, setBits := 0, hits := 0 }

/-- `DirtyAfterDraw(set_bits, hits)`: an erase-only draw under `ANTI_FLICKER` leaves `dirty` as it is, every other
draw sets it (40_display.md R122; log 24). -/
def State.dirtyAfterDraw (s : State) (setBits hits : Nat) : State :=
  s.setDirty (if (decide (setBits > 0) && decide (hits = setBits)) && s.cfg.antiFlicker then s.m.dirty else true)

/-- CLS, 00E0 (40_display.md R120). -/
def execCls (s : State) : Host.Outcome State Fault Refusal :=
  .next ((s.setFb (Vector.replicate _ 0)).setDirty true).advance

/-- DRW Vx, Vy, n, Dxyn (40_display.md R121). -/
def execDrw (x y : RegIdx) (n : Nat) (s : State) : Host.Outcome State Fault Refusal :=
  if s.dataInRange n then
    let ps := spritePixels (s.reg x).toNat (s.reg y).toNat (s.readBytes (s.dataAddr 0) n)
    let d := drawPixels s.m.fb ps
    .next (((s.setFb d.fb).setReg vf (collisionFlag d.coll)).dirtyAfterDraw d.setBits d.hits).advance
  else .next (s.raise .dataOob (encode (.drw x y n)) s.dataOobAddr)

end Sys2Proof.Machine
end

