-- ==== Sys2Proof/Machine/Flow.lean ====
section
/-! DEFINITION. Control transfer and conditional skips (41_flow.md R140 to R145). -/

namespace Sys2Proof.Machine

/-- RET, 00EE: pop, and resume after the call (41_flow.md R142). The popped entry is not cleared. -/
def execRet (ign : BitVec 8) (s : State) : Host.Outcome State Fault Refusal :=
  if h : 0 < s.m.sp.val then
    have top : s.m.sp.val - 1 < delta% stackDepth := by have := s.m.sp.isLt; omega
    .next ((s.setSp ⟨s.m.sp.val - 1, by omega⟩).setPc (s.m.stack[s.m.sp.val - 1] + 2))
  else .next (s.raise .stackUnderflow (encode (.ret ign)) s.spWord)

/-- JP nnn, 1nnn (41_flow.md R140). -/
def execJp (nnn : Addr12) (s : State) : Host.Outcome State Fault Refusal :=
  .next (s.setPc (zextAddr nnn))

/-- CALL nnn, 2nnn: the address of this CALL is pushed, not `pc + 2` (41_flow.md R141). -/
def execCall (nnn : Addr12) (s : State) : Host.Outcome State Fault Refusal :=
  if h : s.m.sp.val < stackDepth then
    .next (((s.setStack ⟨s.m.sp.val, h⟩ s.m.pc).setSp ⟨s.m.sp.val + 1, by simp only [stackDepth] at h; omega⟩).setPc
      (zextAddr nnn))
  else .next (s.raise .stackOverflow (encode (.call nnn)) s.spWord)

/-- SE Vx, nn, 3xnn (41_flow.md R143). -/
def execSeImm (x : RegIdx) (nn : Byte) (s : State) : Host.Outcome State Fault Refusal :=
  .next (s.skipIf (decide (s.reg x = nn)))

/-- SNE Vx, nn, 4xnn (41_flow.md R144). -/
def execSneImm (x : RegIdx) (nn : Byte) (s : State) : Host.Outcome State Fault Refusal :=
  .next (s.skipIf (decide (s.reg x ≠ nn)))

/-- SNE Vx, Vy, 9xy0 (41_flow.md R145). -/
def execSneReg (x y : RegIdx) (s : State) : Host.Outcome State Fault Refusal :=
  .next (s.skipIf (decide (s.reg x ≠ s.reg y)))

end Sys2Proof.Machine
end

