-- ==== Sys2Proof/Machine/IndexMemory.lean ====
section
/-! DEFINITION. The index register and memory transfer (43_index_memory.md R180 to R186). -/

namespace Sys2Proof.Machine

/-- LD I, nnn, Annn (43_index_memory.md R180). -/
def execLdI (nnn : Addr12) (s : State) : Host.Outcome State Fault Refusal :=
  .next (s.setI (zextAddr nnn)).advance

/-- ADD I, Vx, Fx1E: `I` is not masked to 12 bits, and the addend is read after the flag is written
(43_index_memory.md R181; log 19, log 28). -/
def execAddI (x : RegIdx) (s : State) : Host.Outcome State Fault Refusal :=
  let s1 := s.setReg vf (indexOverflowFlag s.m.i (s.reg x))
  .next (s1.setI (s1.m.i + zextByte (s1.reg x))).advance

/-- LD F, Vx, Fx29: `v[x]` is not masked to its low nibble (43_index_memory.md R182). -/
def execLdF (x : RegIdx) (s : State) : Host.Outcome State Fault Refusal :=
  .next (s.setI (zextByte (s.reg x) * BitVec.ofNat _ glyphSize)).advance

/-- The three decimal digits of a byte, hundreds first (43_index_memory.md R183). -/
def bcdDigits (b : Byte) : List Byte :=
  [BitVec.ofNat _ (b.toNat / 100), BitVec.ofNat _ (b.toNat / 10 % 10), BitVec.ofNat _ (b.toNat % 10)]

/-- LD B, Vx, Fx33 (43_index_memory.md R183). -/
def execLdB (x : RegIdx) (s : State) : Host.Outcome State Fault Refusal :=
  if s.dataInRange 3 then .next (s.writeBytes (s.dataAddr 0) (bcdDigits (s.reg x))).advance
  else .next (s.raise .dataOob (encode (.ldB x)) s.dataOobAddr)

/-- LD [I], Vx, Fx55 (43_index_memory.md R184). -/
def execLdMemV (x : RegIdx) (s : State) : Host.Outcome State Fault Refusal :=
  if s.dataInRange (x.val + 1) then
    .next ((s.storeRegs (s.dataAddr 0) (x.val + 1)).legacyIncrement (x.val + 1)).advance
  else .next (s.raise .dataOob (encode (.ldMemV x)) s.dataOobAddr)

/-- LD Vx, [I], Fx65 (43_index_memory.md R185). -/
def execLdVMem (x : RegIdx) (s : State) : Host.Outcome State Fault Refusal :=
  if s.dataInRange (x.val + 1) then
    .next ((s.loadRegs (s.dataAddr 0) (x.val + 1)).legacyIncrement (x.val + 1)).advance
  else .next (s.raise .dataOob (encode (.ldVMem x)) s.dataOobAddr)

end Sys2Proof.Machine
end

