-- ==== Sys2Proof/Machine/TimersKeys.lean ====
section
/-! DEFINITION. Key tests, key wait and timer access (44_timers_keys.md R200 to R205). -/

namespace Sys2Proof.Machine

/-- SKP Vx, Ex9E (44_timers_keys.md R200). -/
def execSkp (x : RegIdx) (s : State) : Host.Outcome State Fault Refusal :=
  if (s.reg x).toNat < nkeys then .next (s.skipIf (s.keyDown (s.reg x).toNat))
  else .next (s.raise .keyIndex (encode (.skp x)) (zextByte (s.reg x)))

/-- SKNP Vx, ExA1 (44_timers_keys.md R201). -/
def execSknp (x : RegIdx) (s : State) : Host.Outcome State Fault Refusal :=
  if (s.reg x).toNat < nkeys then .next (s.skipIf (!s.keyDown (s.reg x).toNat))
  else .next (s.raise .keyIndex (encode (.sknp x)) (zextByte (s.reg x)))

/-- LD Vx, DT, Fx07 (44_timers_keys.md R202). -/
def execLdVDt (x : RegIdx) (s : State) : Host.Outcome State Fault Refusal :=
  .next (s.setReg x s.m.dt).advance

/-- LD Vx, K, Fx0A: without a key the step writes nothing, holds `pc` and answers WAIT (44_timers_keys.md R203). -/
def execLdVK (x : RegIdx) (s : State) : Host.Outcome State Fault Refusal :=
  if s.m.keys = 0 then .next (s.setStatus .wait)
  else .next (s.setReg x (BitVec.ofNat _ (pickKey s.cfg.keywaitPick s.m.keys))).advance

/-- LD DT, Vx, Fx15 (44_timers_keys.md R204). -/
def execLdDtV (x : RegIdx) (s : State) : Host.Outcome State Fault Refusal :=
  .next (s.setDt (s.reg x)).advance

/-- LD ST, Vx, Fx18 (44_timers_keys.md R205). -/
def execLdStV (x : RegIdx) (s : State) : Host.Outcome State Fault Refusal :=
  .next (s.setSt (s.reg x)).advance

end Sys2Proof.Machine
end

