-- ==== Sys2Proof/Machine/Fetch.lean ====
section
/-! DEFINITION. The part of a step before Execute: the HALTED check, the fetch, and the words that select no
instruction (30_encoding.md R83; 20_memory.md R53; 46_unknown.md R220). -/

namespace Sys2Proof.Machine

/-- The big-endian word at `pc` and `pc + 1` (20_memory.md R53). -/
def State.fetchedWord (s : State) : Word :=
  wordOfBytes (s.readByte s.m.pc.toNat) (s.readByte (s.m.pc.toNat + 1))

/-- UNKNOWN: status, `log_word` and `log_pc` are written, and nothing else (46_unknown.md R220). -/
def State.logUnknown (s : State) (w : Word) : State :=
  { s with status := .unknown, logWord := w, logPc := s.m.pc }

/-- How the part of a step before Execute ends. -/
inductive Issue where
  /-- the step is over, in this state -/
  | done (s : State)
  /-- the handler of this instruction runs on this state -/
  | execute (i : Instr) (s : State)
deriving DecidableEq, Repr

/-- `Step()` of 30_encoding.md R83 up to Execute: HALTED while a fault is latched (60_exceptions.md R245), then the
fetch range, then decoding; status is OK when the handler starts. -/
def State.issue (s : State) : Issue :=
  if s.fault.code = .none then
    if inRange s.m.pc.toNat 2 then
      match decodeWord s.fetchedWord with
      | .ok i => .execute i (s.setStatus .ok)
      | .error _ => .done (s.logUnknown s.fetchedWord)
    else .done (s.raise .fetchOob 0 s.fetchOobAddr)
  else .done (s.setStatus .halted)

/-- The state with an instruction, numbered as spec/opcode_table.json numbers its bits, stored where the next step
fetches, and with what the fetch needs: no fault latched, no host cycle scheduled before the step, and a `pc` that
two bytes of memory stand at (log 18). -/
def State.placeTableWord (s : State) (nbits w : Nat) : State :=
  let pc : Word := if inRange s.m.pc.toNat 2 then s.m.pc else BitVec.ofNat _ origin
  let s1 : State := { s.clearFault with host := [] }
  (s1.setPc pc).writeBytes pc.toNat (tableBytes nbits w)

end Sys2Proof.Machine
end

