-- ==== Sys2Proof/Machine/HostPort.lean ====
section
/-! DEFINITION. The host's side of a cycle: reset, host commands, the timer tick, their order, the loader, and the
outputs the host reads (60_exceptions.md R260 to R272; 70_reset_and_hazards.md R290, R291; 92_eei_decisions.md D2). -/

namespace Sys2Proof.Machine

/-- Reset, as one indivisible action that samples the configuration inputs (70_reset_and_hazards.md R290). The
model's own `draws` and `host` are no state of the unit and stay. -/
def State.resetUnit (s : State) (inputs : Inputs) : State where
  m := MachineState.reset
  cfg := inputs
  fault := FaultLatch.clear
  snap := none
  status := .ok
  logWord := 0
  logPc := 0
  response := .none
  draws := s.draws
  host := s.host

/-- SAVE: `SNAP <- copy of Machine State; snap_valid <- 1` (60_exceptions.md R270). -/
def State.save (s : State) : State := { s with snap := some s.m }

/-- RESTORE: report NO_SNAPSHOT and change nothing, or copy SNAP back, clear the fault latch and keep SNAP
(60_exceptions.md R270). -/
def State.restore (s : State) : State :=
  match s.snap with
  | none => { s with response := .noSnapshot }
  | some saved => { s.clearFault with m := saved }

/-- LOAD_WRITE(a, b): a write above 0xFFF is refused and changes nothing (20_memory.md R63). -/
def State.loadWrite (s : State) (a : Nat) (b : Byte) : State := if a ≤ maxAddr then s.writeByte a b else s

/-- One host command (60_exceptions.md R266). -/
def State.command (s : State) (c : HostCommand) : State :=
  match c with
  | .loadWrite a b => s.loadWrite a b
  | .setKeys k => s.setKeys k
  | .clearDirty => s.setDirty false
  | .clearFault => s.clearFault
  | .save => s.save
  | .restore => s.restore

/-- A timer after one tick: a timer at 0 stays at 0 (60_exceptions.md R260; log 25). -/
def tickDown (b : Byte) : Byte := if b ≠ 0 then b - 1 else b

/-- `OnTick()`: each timer is decremented independently, whatever the unit's status (60_exceptions.md R260, R263). -/
def State.onTick (s : State) : State := (s.setDt (tickDown s.m.dt)).setSt (tickDown s.m.st)

/-- The signals of a cycle the host says nothing about: only `step` is asserted (log 3). -/
def Cycle.stepOnly : Cycle := { reset := none, command := none, tick := false, step := true }

/-- The signals of this cycle: the host's next scheduled cycle. -/
def State.cycle (s : State) : Cycle := s.host.headD Cycle.stepOnly

/-- The state after this cycle's reset, or after its host command and then its tick (92_eei_decisions.md D2 (1) to
(3); log 29). The cycle is used up, and the response is that of this cycle's command. -/
def State.afterHost (s : State) : State :=
  let s1 : State := { s with host := s.host.tail, response := .none }
  match s.cycle.reset with
  | some inputs => s1.resetUnit inputs
  | none =>
    let s2 := match s.cycle.command with
      | some c => s1.command c
      | none => s1
    if s.cycle.tick then s2.onTick else s2

/-- Whether this cycle ends in a step: `step` is asserted and no reset makes the rest of the cycle do nothing
(92_eei_decisions.md D2 (1) and (4)). -/
def State.stepGiven (s : State) : Bool := s.cycle.step && s.cycle.reset.isNone

/-! ## The loader (70_reset_and_hazards.md R291, R293) -/

/-- The LOAD_WRITE cycles, without a step, that place bytes from address a. -/
def loadCycles (a : Nat) : List Byte → List Cycle
  | [] => []
  | b :: bs => { reset := none, command := some (.loadWrite a b), tick := false, step := false } :: loadCycles (a + 1) bs

/-- The loader's cycles: reset with the configuration inputs, then the image from 0x200; an image longer than 0xE00
bytes is refused and nothing is written after the reset (70_reset_and_hazards.md R291; log 35). -/
def loaderCycles (inputs : Inputs) (image : List Byte) : List Cycle :=
  { reset := some inputs, command := none, tick := false, step := false } ::
    (if image.length ≤ imageSize then loadCycles origin image else [])

/-! ## Outputs (10_state.md R35) -/

/-- `sound_on = (ST ≠ 0)` (60_exceptions.md R262). -/
def State.soundOn (s : State) : Bool := decide (s.m.st ≠ 0)

/-- Bit `k = y*64 + x` of the `fb` output, 2048 bits, of the render port (40_display.md R123). -/
def State.fbOut (s : State) (k : Fin (delta% fbSize)) : Bool :=
  pixelAt s.m.fb (wrapPixel (k.val % fbW) (k.val / fbW))

/-- `snap_valid` (10_state.md R33). -/
def State.snapValid (s : State) : Bool := s.snap.isSome

/-- `fault_code` as the 3 bits the host reads (10_state.md R32). -/
def FaultCode.bits (c : FaultCode) : BitVec 3 :=
  match c with
  | .none => 0
  | .fetchOob => 1
  | .dataOob => 2
  | .stackOverflow => 3
  | .stackUnderflow => 4
  | .keyIndex => 5

/-- `sp` as the 5 bits the host reads (10_state.md R26). -/
def State.spBits (s : State) : BitVec 5 := BitVec.ofNat 5 s.m.sp.val

end Sys2Proof.Machine
end

