-- ==== Sys2Proof/Machine/Step.lean ====
section
/-! DEFINITION. One cycle of the machine: the host's signals, then the step of 30_encoding.md R83. -/

namespace Sys2Proof.Machine

/-- One cycle (92_eei_decisions.md D2): reset, or at most one host command, then the tick, then the step. With nothing
scheduled by the host it is one step, which executes one instruction (30_encoding.md R83). -/
def step (s : State) : Host.Outcome State Fault Refusal :=
  if s.stepGiven then
    match s.afterHost.issue with
    | .done t => .next t
    | .execute i t => exec i t
  else .next s.afterHost

/-- The state with a table word stored where `step` fetches its next instruction (log 18). -/
def State.withFetchWord (s : State) (nbits w : Nat) : State := s.placeTableWord nbits w

end Sys2Proof.Machine
end

