-- ==== Sys2Proof/Safety.lean ====
section
/-! DEFINITION. What counts as a good state and as the end of a run (60_exceptions.md R277), and the invariant. -/

namespace Sys2Proof.Machine

/-- A fault is latched: the unit does nothing more until the host acts, "a bad end, never a good final state"
(60_exceptions.md R245, R277 (a)). -/
abbrev State.Halted (s : State) : Prop := s.fault.code ≠ .none

/-- A safe state: no fault is latched. -/
abbrev State.Safe (s : State) : Prop := s.fault.code = .none

/-- The next instruction is a `JP` to itself, the loop the spec calls `HALT` (30_encoding.md R96; 60_exceptions.md
R277 (b)). -/
abbrev State.AtHaltLoop (s : State) : Prop :=
  inRange s.m.pc.toNat 2 ∧ ∃ nnn, decodeWord s.fetchedWord = .ok (.jp nnn) ∧ zextAddr nnn = s.m.pc

/-- The next word selects no instruction: the run stalls there (46_unknown.md R221). -/
abbrev State.AtUnknown (s : State) : Prop :=
  inRange s.m.pc.toNat 2 ∧ ∃ e, decodeWord s.fetchedWord = .error e

/-- The words that can raise a fault of each code at execution (60_exceptions.md R241, "raised by"). -/
abbrev FaultCode.RaisedBy (c : FaultCode) (w : Word) : Prop :=
  match c with
  | .none | .fetchOob => w = 0
  | .dataOob => w &&& 0xF000 = 0xD000 ∨ w &&& 0xF0FF = 0xF033 ∨ w &&& 0xF0FF = 0xF055 ∨ w &&& 0xF0FF = 0xF065
  | .stackOverflow => w &&& 0xF000 = 0x2000
  | .stackUnderflow => w &&& 0xF00F = 0x000E
  | .keyIndex => w &&& 0xF0FF = 0xE09E ∨ w &&& 0xF0FF = 0xE0A1

/-- The cause of 60_exceptions.md R241 for each code, read off the Machine State that the faulting step left
unchanged, with the address the code records. -/
abbrev FaultCode.Cause (c : FaultCode) (addr : Word) (m : MachineState) : Prop :=
  match c with
  | .none => addr = 0
  | .fetchOob => maxAddr < m.pc.toNat + 1 ∧ addr.toNat = max m.pc.toNat memSize
  | .dataOob => addr.toNat = max m.i.toNat memSize
  | .stackOverflow => m.sp.val = stackDepth ∧ addr.toNat = stackDepth
  | .stackUnderflow => m.sp.val = 0 ∧ addr = 0
  | .keyIndex => nkeys ≤ addr.toNat ∧ ∃ x : RegIdx, addr.toNat = (m.v[x]).toNat

/-- The latch holds what 60_exceptions.md R241 and R242 say: nothing for NONE (R244); for a fault the held `pc`, a
word that can raise it, and its cause. -/
abbrev FaultLatch.Consistent (f : FaultLatch) (m : MachineState) : Prop :=
  f.pc = (if f.code = .none then 0 else m.pc) ∧ f.code.RaisedBy f.insn ∧ f.code.Cause f.addr m

/-- The invariant every step keeps: the live memory and the snapshot's are in canonical form (20_memory.md R51: no
entry above 0xFFF), and the fault latch is consistent with the Machine State it left unchanged (60_exceptions.md R242). -/
structure State.Inv (s : State) : Prop where
  /-- the live memory is canonical -/
  memory_wf : Memory.wf s.cfg.font s.m.memory = true
  /-- a held snapshot's memory is canonical -/
  snap_wf : ∀ saved, s.snap = some saved → Memory.wf s.cfg.font saved.memory = true
  /-- the latch records what its code says -/
  fault_consistent : s.fault.Consistent s.m

end Sys2Proof.Machine
end

