-- ==== Sys2Proof/Certificates/Slice0/Obligations.lean ====
section
/-! DEFINITION. The statements about the model, from the numbered rules of spec/. First the words they use, then one
statement (or two of one shape) per instruction, then the statements about the whole machine. Where a statement names
`host`, `response` or `draws`, these are the model's own fields (log 2, log 3, log 5, log 15): what it says of them is
the model's bookkeeping and no rule of the spec. -/

namespace Sys2Proof.Stmt

open Sys2Proof.Machine

/-! ## Words of the statements -/

/-- `x`, the slice `insn[11:8]` (30_encoding.md R81). -/
def xOf (w : Word) : RegIdx := ⟨(w.extractLsb' 8 4).toNat, (w.extractLsb' 8 4).isLt⟩

/-- `y`, the slice `insn[7:4]`. -/
def yOf (w : Word) : RegIdx := ⟨(w.extractLsb' 4 4).toNat, (w.extractLsb' 4 4).isLt⟩

/-- `nn`, the slice `insn[7:0]`. -/
def nnOf (w : Word) : Byte := w.extractLsb' 0 8

/-- `nnn`, the slice `insn[11:0]`. -/
def nnnOf (w : Word) : Addr12 := w.extractLsb' 0 12

/-- The encoding line of an instruction's rule: exactly the words with this pattern under this mask decode to the
instruction, with the operands `mk` reads from the word. -/
def Selects (pattern mask : Word) (mk : Word → Instr) : Prop :=
  ∀ w : Word, decodeWord w = .ok (mk w) ↔ w &&& mask = pattern

/-- Of the registers, only `v[x]` may have changed, to a byte of this value. -/
def WritesOne (before after : Vector Byte 16) (x : RegIdx) (value : Nat) : Prop :=
  (after[x]).toNat = value ∧ ∀ r : RegIdx, r ≠ x → after[r] = before[r]

/-- The instruction raises this fault: the next state differs in the latch and the status alone. The latched word is
the instruction's own (60_exceptions.md R242; log 10). -/
def Raises (i : Instr) (s : State) (code : FaultCode) (addr : Nat) : Prop :=
  ∃ a : Word, a.toNat = addr ∧
    exec i s = .next { s with
      fault := { code := code, pc := s.m.pc, insn := encode i, addr := a }
      status := .fault }

/-- `InRange(I, n)` on naturals (00_scope.md R10). -/
def Reaches (s : State) (n : Nat) : Prop := n = 0 ∨ s.m.i.toNat + n - 1 ≤ 0xFFF

/-- A 1-bit flag as the value VF holds. -/
def bit (p : Prop) [Decidable p] : Nat := if p then 1 else 0

/-- The value of a register after VF was written with a flag: `v[r]`, but the flag for r = 15. -/
def afterFlag (s : State) (flag : Nat) (r : RegIdx) : Nat := if r = 15 then flag else (s.m.v[r]).toNat

/-- The set source bits of an n-row sprite, as (row, column) pairs; bit 7 of a sprite byte is column 0. -/
def sourceBits (s : State) (n : Nat) : List (Nat × Nat) :=
  ((List.range n).flatMap fun r => (List.range 8).map fun c => (r, c)).filter
    fun rc => (s.readByte (s.m.i.toNat + rc.1)).getLsbD (7 - rc.2)

/-- Where a source bit lands: column `(v[x] + c) mod 64` of row `(v[y] + r) mod 32`. -/
def landsOn (s : State) (x y : RegIdx) (rc : Nat × Nat) : Pixel :=
  (⟨((s.m.v[y]).toNat + rc.1) % 32, Nat.mod_lt _ (by decide)⟩,
    ⟨((s.m.v[x]).toNat + rc.2) % 64, Nat.mod_lt _ (by decide)⟩)

/-- How many bytes of memory an instruction touches through `I` (20_memory.md R55). -/
def accessCount : Instr → Nat
  | .drw _ _ n => n
  | .ldB _ => 3
  | .ldMemV x => x.val + 1
  | .ldVMem x => x.val + 1
  | .cls _ | .ret _ | .jp _ | .call _ | .seImm _ _ | .sneImm _ _ | .ldImm _ _ | .addImm _ _ | .ldReg _ _
  | .andReg _ _ | .xorReg _ _ | .addReg _ _ | .subReg _ _ | .shr _ _ | .sneReg _ _ _ | .ldI _ | .rnd _ _
  | .skp _ | .sknp _ | .ldVDt _ | .ldVK _ | .ldDtV _ | .ldStV _ | .addI _ | .ldF _ => 0

/-- How many bytes of memory an instruction writes (20_memory.md R55). -/
def storeCount : Instr → Nat
  | .ldB _ => 3
  | .ldMemV x => x.val + 1
  | _ => 0

/-- Whether an instruction may write a register: through a register field (10_state.md R22) or, for VF, as a flag
(R23). -/
def mayWrite (i : Instr) (r : RegIdx) : Prop :=
  match i with
  | .ldImm x _ | .addImm x _ | .ldReg x _ | .andReg x _ | .xorReg x _ | .rnd x _ | .ldVDt x | .ldVK x => r = x
  | .addReg x _ | .subReg x _ | .shr x _ => r = x ∨ r = 15
  | .addI _ | .drw _ _ _ => r = 15
  | .ldVMem x => r.val ≤ x.val
  | .cls _ | .ret _ | .jp _ | .call _ | .seImm _ _ | .sneImm _ _ | .sneReg _ _ _ | .ldI _ | .skp _ | .sknp _
  | .ldDtV _ | .ldStV _ | .ldF _ | .ldB _ | .ldMemV _ => False

/-- The next `pc` of each class of 30_encoding.md R84, for an instruction that raises no fault. -/
def nextPc (i : Instr) (s : State) : Word :=
  match i with
  | .jp nnn | .call nnn => nnn.setWidth 16
  | .ret _ => (s.m.stack[s.m.sp.val - 1]?.getD 0) + 2
  | .seImm x nn => if s.m.v[x] = nn then s.m.pc + 4 else s.m.pc + 2
  | .sneImm x nn => if s.m.v[x] = nn then s.m.pc + 2 else s.m.pc + 4
  | .sneReg x y _ => if s.m.v[x] = s.m.v[y] then s.m.pc + 2 else s.m.pc + 4
  | .skp x => if s.m.keys.getLsbD (s.m.v[x]).toNat then s.m.pc + 4 else s.m.pc + 2
  | .sknp x => if s.m.keys.getLsbD (s.m.v[x]).toNat then s.m.pc + 2 else s.m.pc + 4
  | .ldVK _ => if s.m.keys = 0 then s.m.pc else s.m.pc + 2
  | .cls _ | .ldImm _ _ | .addImm _ _ | .ldReg _ _ | .andReg _ _ | .xorReg _ _ | .addReg _ _ | .subReg _ _
  | .shr _ _ | .ldI _ | .rnd _ _ | .drw _ _ _ | .ldVDt _ | .ldDtV _ | .ldStV _ | .addI _ | .ldF _ | .ldB _
  | .ldMemV _ | .ldVMem _ => s.m.pc + 2

/-- The unit can fetch and decode in this state: no fault is latched and both bytes at `pc` exist. -/
def Ready (p : State) : Prop := p.fault.code = .none ∧ p.m.pc.toNat ≤ 0xFFE

/-- The big-endian word at `pc` and `pc + 1`. -/
def wordAtPc (p : State) : Word := p.readByte p.m.pc.toNat ++ p.readByte (p.m.pc.toNat + 1)

/-- A cycle in which the host neither resets, nor restores, nor writes memory: it may press keys, clear `dirty`, clear
a fault, save, tick, and give or not give a step. -/
def Quiet (c : Cycle) : Prop :=
  c.reset = none ∧ c.command ≠ some .restore ∧ ∀ a b, c.command ≠ some (.loadWrite a b)

end Sys2Proof.Stmt

open Sys2Proof Sys2Proof.Machine Sys2Proof.Stmt

/-! ## Display -/

/-- 40_display.md R120. CLS clears every pixel, sets `dirty`, advances `pc` by 2, and changes nothing else, whatever
its ignored bits are. -/
def Obligations.ClsClearsTheDisplay : Prop :=
  Selects 0x0000 0xF00F (fun w => .cls (w.extractLsb' 4 8)) ∧
  ∀ (ign : BitVec 8) (s : State), ∃ fb : Framebuffer,
    exec (.cls ign) s = .next { s with m := { s.m with fb := fb, dirty := true, pc := s.m.pc + 2 } } ∧
    ∀ p, pixelAt fb p = false

/-- 40_display.md R121, R122. In range, DRW flips exactly the pixels its set source bits land on, writes VF with 1 iff
one of them was set and else 0, sets `dirty` unless ANTI_FLICKER suppresses an erase-only draw, advances `pc` by 2,
and changes nothing else (`I` and memory among it); out of range it raises DATA_OOB and changes nothing. It rests on
92_eei_decisions.md D23 (VF 0 without a collision), D24 (bit 7 is leftmost), D25 (wrap per pixel) and D26 (erase-only). -/
def Obligations.DrwDrawsASprite : Prop :=
  Selects 0xD000 0xF000 (fun w => .drw (xOf w) (yOf w) (w.extractLsb' 0 4).toNat) ∧
  ∀ (x y : RegIdx) (n : Nat) (s : State), n ≤ 15 →
    (Reaches s n → ∃ (fb : Framebuffer) (v : Vector Byte 16) (dirty : Bool),
      exec (.drw x y n) s =
        .next { s with m := { s.m with fb := fb, v := v, dirty := dirty, pc := s.m.pc + 2 } } ∧
      (∀ p, pixelAt fb p = (pixelAt s.m.fb p ^^ decide (p ∈ (sourceBits s n).map (landsOn s x y)))) ∧
      WritesOne s.m.v v 15 (bit (∃ rc ∈ sourceBits s n, pixelAt s.m.fb (landsOn s x y rc) = true)) ∧
      dirty =
        (if s.cfg.antiFlicker = true ∧ (sourceBits s n).length > 0 ∧
            (sourceBits s n).countP (fun rc => pixelAt s.m.fb (landsOn s x y rc)) = (sourceBits s n).length
          then s.m.dirty else true)) ∧
    (¬Reaches s n → Raises (.drw x y n) s .dataOob (max s.m.i.toNat 0x1000))

/-! ## Control transfer and skips -/

/-- 41_flow.md R140. JP sets `pc` to the zero-extended target and changes nothing else. -/
def Obligations.JpJumps : Prop :=
  Selects 0x1000 0xF000 (fun w => .jp (nnnOf w)) ∧
  ∀ (nnn : Addr12) (s : State),
    exec (.jp nnn) s = .next { s with m := { s.m with pc := BitVec.ofNat 16 nnn.toNat } }

/-- 41_flow.md R141. With room on the stack, CALL stores its own address at `stack[sp]`, raises `sp` by 1 and sets
`pc` to the target, and changes nothing else; with sixteen entries in use it raises STACK_OVERFLOW. -/
def Obligations.CallPushesOrOverflows : Prop :=
  Selects 0x2000 0xF000 (fun w => .call (nnnOf w)) ∧
  ∀ (nnn : Addr12) (s : State),
    (∀ h : s.m.sp.val < 16, ∃ (stack : Vector Word 16) (sp : Fin 17),
      exec (.call nnn) s =
        .next { s with m := { s.m with stack := stack, sp := sp, pc := BitVec.ofNat 16 nnn.toNat } } ∧
      sp.val = s.m.sp.val + 1 ∧ stack[s.m.sp.val] = s.m.pc ∧
      ∀ j : Fin 16, j.val ≠ s.m.sp.val → stack[j] = s.m.stack[j]) ∧
    (s.m.sp.val = 16 → Raises (.call nnn) s .stackOverflow 16)

/-- 41_flow.md R142. With an entry in use, RET lowers `sp` by 1 and sets `pc` to the popped entry plus 2, and changes
nothing else (the entry is not cleared); with an empty stack it raises STACK_UNDERFLOW. -/
def Obligations.RetPopsOrUnderflows : Prop :=
  Selects 0x000E 0xF00F (fun w => .ret (w.extractLsb' 4 8)) ∧
  ∀ (ign : BitVec 8) (s : State),
    (∀ (k : Nat) (_ : s.m.sp.val = k + 1) (hk : k < 16), ∃ (pc : Word) (sp : Fin 17),
      exec (.ret ign) s = .next { s with m := { s.m with pc := pc, sp := sp } } ∧
      sp.val = k ∧ pc.toNat = ((s.m.stack[k]).toNat + 2) % 65536) ∧
    (s.m.sp.val = 0 → Raises (.ret ign) s .stackUnderflow 0)

/-- 41_flow.md R143. SE Vx, nn moves `pc` by 4 if `v[x]` equals nn, else by 2, and changes nothing else. -/
def Obligations.SeImmSkipsWhenEqual : Prop :=
  Selects 0x3000 0xF000 (fun w => .seImm (xOf w) (nnOf w)) ∧
  ∀ (x : RegIdx) (nn : Byte) (s : State),
    exec (.seImm x nn) s =
      .next { s with m := { s.m with pc := if s.m.v[x] = nn then s.m.pc + 4 else s.m.pc + 2 } }

/-- 41_flow.md R144. SNE Vx, nn moves `pc` by 4 if `v[x]` differs from nn, else by 2, and changes nothing else. -/
def Obligations.SneImmSkipsWhenDifferent : Prop :=
  Selects 0x4000 0xF000 (fun w => .sneImm (xOf w) (nnOf w)) ∧
  ∀ (x : RegIdx) (nn : Byte) (s : State),
    exec (.sneImm x nn) s =
      .next { s with m := { s.m with pc := if s.m.v[x] ≠ nn then s.m.pc + 4 else s.m.pc + 2 } }

/-- 41_flow.md R145. SNE Vx, Vy moves `pc` by 4 if the registers differ, else by 2, and changes nothing else, whatever
its low nibble is. -/
def Obligations.SneRegSkipsWhenDifferent : Prop :=
  Selects 0x9000 0xF000 (fun w => .sneReg (xOf w) (yOf w) (w.extractLsb' 0 4)) ∧
  ∀ (x y : RegIdx) (ign : BitVec 4) (s : State),
    exec (.sneReg x y ign) s =
      .next { s with m := { s.m with pc := if s.m.v[x] ≠ s.m.v[y] then s.m.pc + 4 else s.m.pc + 2 } }

/-! ## Register loads and 8-bit arithmetic -/

/-- 42_alu.md R160. LD Vx, nn. -/
def Obligations.LdImmLoads : Prop :=
  Selects 0x6000 0xF000 (fun w => .ldImm (xOf w) (nnOf w)) ∧
  ∀ (x : RegIdx) (nn : Byte) (s : State), ∃ v : Vector Byte 16,
    exec (.ldImm x nn) s = .next { s with m := { s.m with v := v, pc := s.m.pc + 2 } } ∧
    WritesOne s.m.v v x nn.toNat

/-- 42_alu.md R161. ADD Vx, nn adds modulo 256; VF is unchanged unless x = 15. -/
def Obligations.AddImmAddsWithoutCarry : Prop :=
  Selects 0x7000 0xF000 (fun w => .addImm (xOf w) (nnOf w)) ∧
  ∀ (x : RegIdx) (nn : Byte) (s : State), ∃ v : Vector Byte 16,
    exec (.addImm x nn) s = .next { s with m := { s.m with v := v, pc := s.m.pc + 2 } } ∧
    WritesOne s.m.v v x (((s.m.v[x]).toNat + nn.toNat) % 256)

/-- 42_alu.md R162. LD Vx, Vy. -/
def Obligations.LdRegCopies : Prop :=
  Selects 0x8000 0xF00F (fun w => .ldReg (xOf w) (yOf w)) ∧
  ∀ (x y : RegIdx) (s : State), ∃ v : Vector Byte 16,
    exec (.ldReg x y) s = .next { s with m := { s.m with v := v, pc := s.m.pc + 2 } } ∧
    WritesOne s.m.v v x (s.m.v[y]).toNat

/-- 42_alu.md R163. AND Vx, Vy, bit by bit; VF is not reset. -/
def Obligations.AndRegCombinesBits : Prop :=
  Selects 0x8002 0xF00F (fun w => .andReg (xOf w) (yOf w)) ∧
  ∀ (x y : RegIdx) (s : State), ∃ v : Vector Byte 16,
    exec (.andReg x y) s = .next { s with m := { s.m with v := v, pc := s.m.pc + 2 } } ∧
    (∀ k < 8, (v[x]).getLsbD k = ((s.m.v[x]).getLsbD k && (s.m.v[y]).getLsbD k)) ∧
    ∀ r : RegIdx, r ≠ x → v[r] = s.m.v[r]

/-- 42_alu.md R164. XOR Vx, Vy, bit by bit; VF is not reset. -/
def Obligations.XorRegCombinesBits : Prop :=
  Selects 0x8003 0xF00F (fun w => .xorReg (xOf w) (yOf w)) ∧
  ∀ (x y : RegIdx) (s : State), ∃ v : Vector Byte 16,
    exec (.xorReg x y) s = .next { s with m := { s.m with v := v, pc := s.m.pc + 2 } } ∧
    (∀ k < 8, (v[x]).getLsbD k = ((s.m.v[x]).getLsbD k ^^ (s.m.v[y]).getLsbD k)) ∧
    ∀ r : RegIdx, r ≠ x → v[r] = s.m.v[r]

/-- 42_alu.md R166. ADD Vx, Vy writes VF with the carry of the exact sum first, then `v[x]` with the sum modulo 256 of
the registers as they then are: for x = 15 or y = 15 the flag is the operand (92_eei_decisions.md D22). -/
def Obligations.AddRegCarriesThenAdds : Prop :=
  Selects 0x8004 0xF00F (fun w => .addReg (xOf w) (yOf w)) ∧
  ∀ (x y : RegIdx) (s : State), ∃ v : Vector Byte 16,
    let flag := bit ((s.m.v[x]).toNat + (s.m.v[y]).toNat > 255)
    exec (.addReg x y) s = .next { s with m := { s.m with v := v, pc := s.m.pc + 2 } } ∧
    (v[x]).toNat = (afterFlag s flag x + afterFlag s flag y) % 256 ∧
    (x ≠ 15 → (v[(15 : RegIdx)]).toNat = flag) ∧
    ∀ r : RegIdx, r ≠ x → r ≠ 15 → v[r] = s.m.v[r]

/-- 42_alu.md R167. SUB Vx, Vy writes VF with 0 if `v[y] > v[x]` and else 1 first, then `v[x]` with the difference
modulo 256 of the registers as they then are (92_eei_decisions.md D22). -/
def Obligations.SubRegBorrowsThenSubtracts : Prop :=
  Selects 0x8005 0xF00F (fun w => .subReg (xOf w) (yOf w)) ∧
  ∀ (x y : RegIdx) (s : State), ∃ v : Vector Byte 16,
    let flag := bit (¬(s.m.v[y]).toNat > (s.m.v[x]).toNat)
    exec (.subReg x y) s = .next { s with m := { s.m with v := v, pc := s.m.pc + 2 } } ∧
    (v[x]).toNat = (afterFlag s flag x + 256 - afterFlag s flag y) % 256 ∧
    (x ≠ 15 → (v[(15 : RegIdx)]).toNat = flag) ∧
    ∀ r : RegIdx, r ≠ x → r ≠ 15 → v[r] = s.m.v[r]

/-- 42_alu.md R168. SHR Vx, Vy writes VF with old bit 0 of `v[x]` first, then halves `v[x]` as it then is; `v[y]` is
neither read nor copied (92_eei_decisions.md D22). -/
def Obligations.ShrShiftsVxRight : Prop :=
  Selects 0x8006 0xF00F (fun w => .shr (xOf w) (yOf w)) ∧
  ∀ (x y : RegIdx) (s : State), ∃ v : Vector Byte 16,
    let flag := (s.m.v[x]).toNat % 2
    exec (.shr x y) s = .next { s with m := { s.m with v := v, pc := s.m.pc + 2 } } ∧
    (v[x]).toNat = afterFlag s flag x / 2 ∧
    (x ≠ 15 → (v[(15 : RegIdx)]).toNat = flag) ∧
    ∀ r : RegIdx, r ≠ x → r ≠ 15 → v[r] = s.m.v[r]

/-- 42_alu.md R169. RND Vx, nn writes `v[x]` with the step's draw masked by nn; it holds for every value of the free
draw. `draws`, the model's own count of draws (log 5), moves on. -/
def Obligations.RndMasksTheDraw : Prop :=
  Selects 0xC000 0xF000 (fun w => .rnd (xOf w) (nnOf w)) ∧
  ∀ (x : RegIdx) (nn : Byte) (s : State), ∃ v : Vector Byte 16,
    exec (.rnd x nn) s =
      .next { s with m := { s.m with v := v, pc := s.m.pc + 2 }, draws := s.draws + 1 } ∧
    (∀ k < 8, (v[x]).getLsbD k = ((Config.rnd s.draws).getLsbD k && nn.getLsbD k)) ∧
    ∀ r : RegIdx, r ≠ x → v[r] = s.m.v[r]

/-! ## Index register and memory transfer -/

/-- 43_index_memory.md R180. LD I, nnn. -/
def Obligations.LdILoadsTheIndex : Prop :=
  Selects 0xA000 0xF000 (fun w => .ldI (nnnOf w)) ∧
  ∀ (nnn : Addr12) (s : State),
    exec (.ldI nnn) s =
      .next { s with m := { s.m with i := BitVec.ofNat 16 nnn.toNat, pc := s.m.pc + 2 } }

/-- 43_index_memory.md R181. ADD I, Vx writes VF with 1 iff the exact sum passes 0xFFF first, then adds `v[x]` as it
then is to `I` modulo 2^16, without a 12-bit mask (92_eei_decisions.md D22, D43). -/
def Obligations.AddIFlagsThenAdds : Prop :=
  Selects 0xF01E 0xF0FF (fun w => .addI (xOf w)) ∧
  ∀ (x : RegIdx) (s : State), ∃ (v : Vector Byte 16) (i : Word),
    let flag := bit (s.m.i.toNat + (s.m.v[x]).toNat > 0xFFF)
    exec (.addI x) s = .next { s with m := { s.m with v := v, i := i, pc := s.m.pc + 2 } } ∧
    WritesOne s.m.v v 15 flag ∧ i.toNat = (s.m.i.toNat + afterFlag s flag x) % 65536

/-- 43_index_memory.md R182. LD F, Vx sets `I` to five times `v[x]`, not masked to its low nibble. -/
def Obligations.LdFPointsAtAGlyph : Prop :=
  Selects 0xF029 0xF0FF (fun w => .ldF (xOf w)) ∧
  ∀ (x : RegIdx) (s : State),
    exec (.ldF x) s =
      .next { s with m := { s.m with i := BitVec.ofNat 16 ((s.m.v[x]).toNat * 5), pc := s.m.pc + 2 } }

/-- 43_index_memory.md R183. In range, LD B, Vx stores the three decimal digits of `v[x]` at `I`, `I+1`, `I+2`,
advances `pc` by 2 and changes nothing else; out of range it raises DATA_OOB and stores nothing. What the stored bytes
read as is stated for a memory in canonical form, which every step keeps. -/
def Obligations.LdBStoresDecimalDigits : Prop :=
  Selects 0xF033 0xF0FF (fun w => .ldB (xOf w)) ∧
  ∀ (x : RegIdx) (s : State),
    (Reaches s 3 → ∃ t : State, exec (.ldB x) s = .next t ∧
      t = { s with m := { s.m with memory := t.m.memory, pc := s.m.pc + 2 } } ∧
      (∀ a, (a < s.dataAddr 0 ∨ s.dataAddr 0 + 3 ≤ a) → t.readByte a = s.readByte a) ∧
      (Memory.wf s.cfg.font s.m.memory = true →
        (t.readByte s.m.i.toNat).toNat = (s.m.v[x]).toNat / 100 ∧
        (t.readByte (s.m.i.toNat + 1)).toNat = (s.m.v[x]).toNat / 10 % 10 ∧
        (t.readByte (s.m.i.toNat + 2)).toNat = (s.m.v[x]).toNat % 10)) ∧
    (¬Reaches s 3 → Raises (.ldB x) s .dataOob (max s.m.i.toNat 0x1000))

/-- 43_index_memory.md R184. In range, LD [I], Vx stores `v[0..x]` at `I`, `I+1`, …, adds x+1 to `I` modulo 2^16 iff
LEGACY_INCREMENT, advances `pc` by 2 and changes nothing else; out of range it raises DATA_OOB and stores nothing.
What the stored bytes read as is stated for a memory in canonical form. -/
def Obligations.LdMemVStoresRegisters : Prop :=
  Selects 0xF055 0xF0FF (fun w => .ldMemV (xOf w)) ∧
  ∀ (x : RegIdx) (s : State),
    (Reaches s (x.val + 1) → ∃ t : State, exec (.ldMemV x) s = .next t ∧
      t = { s with m := { s.m with memory := t.m.memory, i := t.m.i, pc := s.m.pc + 2 } } ∧
      t.m.i.toNat = (if s.cfg.legacyIncrement then (s.m.i.toNat + x.val + 1) % 65536 else s.m.i.toNat) ∧
      (∀ a, (a < s.dataAddr 0 ∨ s.dataAddr 0 + (x.val + 1) ≤ a) → t.readByte a = s.readByte a) ∧
      (Memory.wf s.cfg.font s.m.memory = true →
        ∀ r : RegIdx, r.val ≤ x.val → t.readByte (s.m.i.toNat + r.val) = s.m.v[r])) ∧
    (¬Reaches s (x.val + 1) → Raises (.ldMemV x) s .dataOob (max s.m.i.toNat 0x1000))

/-- 43_index_memory.md R185. In range, LD Vx, [I] loads every register `v[0..x]` from `I`, `I+1`, …, adds x+1 to `I`
modulo 2^16 iff LEGACY_INCREMENT, advances `pc` by 2 and changes nothing else; out of range it raises DATA_OOB. -/
def Obligations.LdVMemLoadsRegisters : Prop :=
  Selects 0xF065 0xF0FF (fun w => .ldVMem (xOf w)) ∧
  ∀ (x : RegIdx) (s : State),
    (Reaches s (x.val + 1) → ∃ (v : Vector Byte 16) (i : Word),
      exec (.ldVMem x) s = .next { s with m := { s.m with v := v, i := i, pc := s.m.pc + 2 } } ∧
      i.toNat = (if s.cfg.legacyIncrement then (s.m.i.toNat + x.val + 1) % 65536 else s.m.i.toNat) ∧
      ∀ r : RegIdx, v[r] = if r.val ≤ x.val then s.readByte (s.m.i.toNat + r.val) else s.m.v[r]) ∧
    (¬Reaches s (x.val + 1) → Raises (.ldVMem x) s .dataOob (max s.m.i.toNat 0x1000))

/-! ## Keys and timers -/

/-- 44_timers_keys.md R200, R201. SKP moves `pc` by 4 if key `v[x]` is down and else by 2, SKNP the other way round,
and neither changes anything else; with `v[x] > 15` both raise KEY_INDEX (92_eei_decisions.md D28). -/
def Obligations.KeyTestsSkip : Prop :=
  Selects 0xE09E 0xF0FF (fun w => .skp (xOf w)) ∧ Selects 0xE0A1 0xF0FF (fun w => .sknp (xOf w)) ∧
  ∀ (x : RegIdx) (s : State),
    ((s.m.v[x]).toNat ≤ 15 →
      exec (.skp x) s = .next { s with m := { s.m with
        pc := if s.m.keys.getLsbD (s.m.v[x]).toNat = true then s.m.pc + 4 else s.m.pc + 2 } } ∧
      exec (.sknp x) s = .next { s with m := { s.m with
        pc := if s.m.keys.getLsbD (s.m.v[x]).toNat = false then s.m.pc + 4 else s.m.pc + 2 } }) ∧
    ((s.m.v[x]).toNat > 15 →
      Raises (.skp x) s .keyIndex (s.m.v[x]).toNat ∧ Raises (.sknp x) s .keyIndex (s.m.v[x]).toNat)

/-- 44_timers_keys.md R202. LD Vx, DT. -/
def Obligations.LdVDtReadsTheDelayTimer : Prop :=
  Selects 0xF007 0xF0FF (fun w => .ldVDt (xOf w)) ∧
  ∀ (x : RegIdx) (s : State), ∃ v : Vector Byte 16,
    exec (.ldVDt x) s = .next { s with m := { s.m with v := v, pc := s.m.pc + 2 } } ∧
    WritesOne s.m.v v x s.m.dt.toNat

/-- 44_timers_keys.md R203. With no key down, LD Vx, K only answers WAIT: nothing else changes and `pc` is held. With
a key down it writes `v[x]` with the index of a down key, the smallest for LOWEST and the largest for HIGHEST,
advances `pc` by 2, and changes nothing else. -/
def Obligations.LdVKWaitsForAKey : Prop :=
  Selects 0xF00A 0xF0FF (fun w => .ldVK (xOf w)) ∧
  ∀ (x : RegIdx) (s : State),
    (s.m.keys = 0 → exec (.ldVK x) s = .next { s with status := .wait }) ∧
    (s.m.keys ≠ 0 → ∃ (v : Vector Byte 16) (k : Nat),
      exec (.ldVK x) s = .next { s with m := { s.m with v := v, pc := s.m.pc + 2 } } ∧
      WritesOne s.m.v v x k ∧ k < 16 ∧ s.m.keys.getLsbD k = true ∧
      (s.cfg.keywaitPick = .lowest → ∀ j < k, s.m.keys.getLsbD j = false) ∧
      (s.cfg.keywaitPick = .highest → ∀ j, k < j → s.m.keys.getLsbD j = false))

/-- 44_timers_keys.md R204, R205. LD DT, Vx sets the delay timer and LD ST, Vx the sound timer; each advances `pc` by
2 and changes nothing else. `sound_on` follows ST. -/
def Obligations.TimersAreSetFromRegisters : Prop :=
  Selects 0xF015 0xF0FF (fun w => .ldDtV (xOf w)) ∧ Selects 0xF018 0xF0FF (fun w => .ldStV (xOf w)) ∧
  ∀ (x : RegIdx) (s : State),
    exec (.ldDtV x) s = .next { s with m := { s.m with dt := s.m.v[x], pc := s.m.pc + 2 } } ∧
    exec (.ldStV x) s = .next { s with m := { s.m with st := s.m.v[x], pc := s.m.pc + 2 } } ∧
    (s.soundOn = true ↔ s.m.st.toNat ≠ 0)

/-! ## Decoding -/

/-- 30_encoding.md R81, R86, R87. A few words, each written out from its rule: 6A2F is LD VA, 0x2F; 8014 is ADD V0, V1;
D125 is DRW V1, V2, 5; FA29 is LD F, VA; 0x012E is RET and 0x0000 is CLS by their low nibble alone (R88); 9121 is
SNE V1, V2; F175 and 5120 select nothing (R89). -/
def Obligations.SampleWordsDecode : Prop :=
  decodeWord 0x6A2F = .ok (.ldImm 10 0x2F) ∧ decodeWord 0x8014 = .ok (.addReg 0 1) ∧
  decodeWord 0xD125 = .ok (.drw 1 2 5) ∧ decodeWord 0xFA29 = .ok (.ldF 10) ∧
  decodeWord 0x012E = .ok (.ret 0x12) ∧ decodeWord 0x0000 = .ok (.cls 0) ∧
  decodeWord 0x9121 = .ok (.sneReg 1 2 1) ∧ decodeWord 0xF175 = .error .unknownFamilyF ∧
  decodeWord 0x5120 = .error .unknownFamily5

/-- 30_encoding.md R81, R82: no bit of an encoding is dropped. The word of every well-formed instruction decodes to
that instruction, every operand at every value. -/
def Obligations.DecodeOfEncodeIsTheInstruction : Prop :=
  ∀ i : Instr, i.WellFormed → decodeWord (encode i) = .ok i

/-- The model's own choice, log 10 (DESIGN CHOICE): the ignored bits stand in the instruction term, so that every word
that decodes is the word of what it decodes to, which is well formed, and the fetched word can be told from the term
(10_state.md R32 `fault_insn`). The spec does not tell such words apart: by 30_encoding.md R88 all 0xyz0 are one CLS,
all 0xyzE one RET and all 9xyk one SNE Vx, Vy, and the statements of these three say that they act alike. -/
def Obligations.EncodeOfDecodeIsTheWord : Prop :=
  ∀ (w : Word) (i : Instr), decodeWord w = .ok i → i.WellFormed ∧ encode i = w

/-- 30_encoding.md R87. The 29 rows have the match and mask listed there; a word selects a row iff it has the row's match
under the row's mask; at most one row matches any word; a word that matches none is unknown. -/
def Obligations.OpcodeMapSelectsOneRow : Prop :=
  opcodeRows.length = 29 ∧
  opcodeRows.map (fun r => (r.pattern, r.mask)) = [
    (0x0000, 0xF00F), (0x000E, 0xF00F), (0x1000, 0xF000), (0x2000, 0xF000), (0x3000, 0xF000), (0x4000, 0xF000),
    (0x6000, 0xF000), (0x7000, 0xF000), (0x8000, 0xF00F), (0x8002, 0xF00F), (0x8003, 0xF00F), (0x8004, 0xF00F),
    (0x8005, 0xF00F), (0x8006, 0xF00F), (0x9000, 0xF000), (0xA000, 0xF000), (0xC000, 0xF000), (0xD000, 0xF000),
    (0xE09E, 0xF0FF), (0xE0A1, 0xF0FF), (0xF007, 0xF0FF), (0xF00A, 0xF0FF), (0xF015, 0xF0FF), (0xF018, 0xF0FF),
    (0xF01E, 0xF0FF), (0xF029, 0xF0FF), (0xF033, 0xF0FF), (0xF055, 0xF0FF), (0xF065, 0xF0FF)] ∧
  (∀ w : Word, ∀ r ∈ opcodeRows, w &&& r.mask = r.pattern ↔ ∃ i, decodeWord w = .ok i ∧ i.row = r) ∧
  (∀ w : Word, ∀ r ∈ opcodeRows, ∀ r' ∈ opcodeRows,
    w &&& r.mask = r.pattern → w &&& r'.mask = r'.pattern → r = r') ∧
  (∀ w : Word, (∀ r ∈ opcodeRows, w &&& r.mask ≠ r.pattern) ↔ ∃ e, decodeWord w = .error e)

/-- 30_encoding.md R89. The unknown words are those of the six families listed there, with the counts listed there, 22352
in all, and every one of them executes as UNKNOWN: no Machine State changes. -/
def Obligations.UnknownWordsAreTheListedOnes : Prop :=
  (∀ w : Word,
    let f := (w.extractLsb' 12 4).toNat
    let n := (w.extractLsb' 0 4).toNat
    let nn := (w.extractLsb' 0 8).toNat
    (∃ e, decodeWord w = .error e) ↔
      (f = 0x0 ∧ n ∉ [0x0, 0xE]) ∨ f = 0x5 ∨
      (f = 0x8 ∧ n ∈ [0x1, 0x7, 0x8, 0x9, 0xA, 0xB, 0xC, 0xD, 0xE, 0xF]) ∨ f = 0xB ∨
      (f = 0xE ∧ nn ∉ [0x9E, 0xA1]) ∨
      (f = 0xF ∧ nn ∉ [0x07, 0x0A, 0x15, 0x18, 0x1E, 0x29, 0x33, 0x55, 0x65])) ∧
  (List.range 16).map (fun f => ((List.range 16).map fun x => (List.range 256).countP fun kk =>
    !(decodeWord (BitVec.ofNat 16 (f * 0x1000 + x * 0x100 + kk))).isOk).sum) =
    [3584, 0, 0, 0, 0, 4096, 0, 0, 2560, 0, 0, 4096, 0, 0, 4064, 3952] ∧
  3584 + 4096 + 2560 + 4096 + 4064 + 3952 = 22352 ∧
  ∀ s : State, s.stepGiven = true → Ready s.afterHost → (∃ e, decodeWord (wordAtPc s.afterHost) = .error e) →
    ∃ t : State, step s = .next t ∧ t.status = .unknown ∧ t.m = s.afterHost.m

/-! ## The instruction cycle -/

/-- 30_encoding.md R83; 92_eei_decisions.md D1, D2. When the cycle gives a step and the bytes at `pc` decode to i after
the host's part of the cycle, the step is exec of i on that state with status OK; a cycle without a step is the host's
part alone; and with nothing scheduled by the host (the model's own reading, log 3) that part only empties the
response, so the step is exec of i on the state itself. -/
def Obligations.StepRunsTheDecodedInstruction : Prop :=
  (∀ (s : State) (i : Instr), s.stepGiven = true → Ready s.afterHost →
    decodeWord (wordAtPc s.afterHost) = .ok i →
    step s = exec i { s.afterHost with status := .ok }) ∧
  (∀ s : State, s.stepGiven = false → step s = .next s.afterHost) ∧
  (∀ (s : State) (i : Instr), s.host = [] → Ready s → decodeWord (wordAtPc s) = .ok i →
    step s = exec i { s with response := .none, status := .ok })

/-- 46_unknown.md R220. A word that matches no row of the opcode map writes the status, `log_word` and `log_pc`, and
nothing else: no Machine State, no `pc`, no fault latch. -/
def Obligations.UnknownWordOnlyLogs : Prop :=
  ∀ s : State, s.stepGiven = true → Ready s.afterHost →
    (∀ r ∈ opcodeRows, wordAtPc s.afterHost &&& r.mask ≠ r.pattern) →
    step s = .next { s.afterHost with
      status := .unknown
      logWord := wordAtPc s.afterHost
      logPc := s.afterHost.m.pc }

/-- 20_memory.md R53. The fetched word is big-endian, the high byte at the lower address. A step with a byte of the instruction above 0xFFF raises FETCH_OOB with the first such byte as
address and no word, and changes no Machine State; `pc` may be odd. -/
def Obligations.FetchAboveMemoryFaults : Prop :=
  (∀ s : State, s.fetchedWord.toNat =
    (s.readByte s.m.pc.toNat).toNat * 256 + (s.readByte (s.m.pc.toNat + 1)).toNat) ∧
  ∀ s : State, s.stepGiven = true → s.afterHost.fault.code = .none → 0xFFE < s.afterHost.m.pc.toNat →
    ∃ a : Word, step s = .next { s.afterHost with
      fault := { code := .fetchOob, pc := s.afterHost.m.pc, insn := 0, addr := a }
      status := .fault } ∧
    a.toNat = if s.afterHost.m.pc.toNat > 0xFFF then s.afterHost.m.pc.toNat else s.afterHost.m.pc.toNat + 1

/-- 60_exceptions.md R245. While a fault is latched a step does nothing but answer HALTED; a tick of the cycle
still acts. -/
def Obligations.HaltedStepDoesNothing : Prop :=
  (∀ s : State, s.stepGiven = true → s.afterHost.fault.code ≠ .none →
    step s = .next { s.afterHost with status := .halted }) ∧
  (∀ (s : State) (rest : List Cycle), s.fault.code ≠ .none →
    s.host = { reset := none, command := none, tick := true, step := true } :: rest →
    step s = .next { s with
      m := { s.m with
        dt := BitVec.ofNat 8 (s.m.dt.toNat - 1)
        st := BitVec.ofNat 8 (s.m.st.toNat - 1) }
      host := rest
      response := .none
      status := .halted })

/-- 46_unknown.md R221 (derived there from R220 and R83). From a state that stands at an unknown word, any number of
quiet cycles (steps, ticks, key changes, saves, no memory write, restore or reset) leaves `pc` and memory as they are,
still at the unknown word; if the last of them gave a step its status is UNKNOWN. A cycle past the schedule gives a
step, which is the model's choice (log 3). -/
def Obligations.UnknownWordStalls : Prop :=
  ∀ (n : Nat) (s : State), s.fault.code = .none → s.AtUnknown → (∀ c ∈ s.host.take n, Quiet c) →
    ∃ t : State, core.run n s = .next t ∧ t.m.pc = s.m.pc ∧ t.m.memory = s.m.memory ∧ t.fault.code = .none ∧
      t.AtUnknown ∧ (n ≠ 0 → (∀ c, s.host[n - 1]? = some c → c.step = true) → t.status = .unknown)

/-- 60_exceptions.md R246, R277; 46_unknown.md R220. The machine never stops by itself: every cycle of every state
answers a next state. -/
def Obligations.EveryCycleAnswersANextState : Prop :=
  (∀ s : State, ∃ t, step s = .next t) ∧ ∀ (n : Nat) (s : State), ∃ t, core.run n s = .next t

/-! ## Faults -/

/-- 60_exceptions.md R241. In a step that starts without a latched fault, each code is latched under exactly the cause
and by exactly the instructions of its row, with the row's address; no other condition faults. -/
def Obligations.OnlyTheListedCausesFault : Prop :=
  ∀ s t : State, s.stepGiven = true → s.afterHost.fault.code = .none → step s = .next t →
    let p := s.afterHost
    (t.fault.code = .fetchOob ↔ p.m.pc.toNat > 0xFFE) ∧
    (t.fault.code = .dataOob ↔ p.m.pc.toNat ≤ 0xFFE ∧
      ∃ i, decodeWord (wordAtPc p) = .ok i ∧ ∃ k < accessCount i, p.m.i.toNat + k > 0xFFF) ∧
    (t.fault.code = .stackOverflow ↔ p.m.pc.toNat ≤ 0xFFE ∧
      ∃ nnn, decodeWord (wordAtPc p) = .ok (.call nnn) ∧ p.m.sp.val = 16) ∧
    (t.fault.code = .stackUnderflow ↔ p.m.pc.toNat ≤ 0xFFE ∧
      ∃ ign, decodeWord (wordAtPc p) = .ok (.ret ign) ∧ p.m.sp.val = 0) ∧
    (t.fault.code = .keyIndex ↔ p.m.pc.toNat ≤ 0xFFE ∧
      ∃ x : RegIdx, (decodeWord (wordAtPc p) = .ok (.skp x) ∨ decodeWord (wordAtPc p) = .ok (.sknp x)) ∧
        (p.m.v[x]).toNat > 15) ∧
    (t.fault.code = .fetchOob → t.fault.addr.toNat = max p.m.pc.toNat 0x1000) ∧
    (t.fault.code = .dataOob → t.fault.addr.toNat = max p.m.i.toNat 0x1000) ∧
    (t.fault.code = .stackOverflow → t.fault.addr.toNat = p.m.sp.val) ∧
    (t.fault.code = .stackUnderflow → t.fault.addr.toNat = p.m.sp.val) ∧
    (t.fault.code = .keyIndex →
      ∃ x : RegIdx, (decodeWord (wordAtPc p) = .ok (.skp x) ∨ decodeWord (wordAtPc p) = .ok (.sknp x)) ∧
        t.fault.addr.toNat = (p.m.v[x]).toNat)

/-- 60_exceptions.md R242. Faults are precise: a step that latches a fault writes the latch and the status alone. The
latch holds `pc`, and the fetched word (0 for FETCH_OOB), whatever the word's ignored bits are. -/
def Obligations.FaultsArePrecise : Prop :=
  ∀ s t : State, s.stepGiven = true → s.afterHost.fault.code = .none → step s = .next t → t.fault.code ≠ .none →
    t = { s.afterHost with
      fault := {
        code := t.fault.code
        pc := s.afterHost.m.pc
        insn := if t.fault.code = .fetchOob then 0 else wordAtPc s.afterHost
        addr := t.fault.addr }
      status := .fault }

/-- 60_exceptions.md R244. A latched fault is cleared by reset, CLEAR_FAULT or a RESTORE of a held snapshot, each of
which leaves all four fields 0, and by nothing else. After CLEAR_FAULT alone the next step faults again, with the same
latch, from unchanged state. -/
def Obligations.OnlyTheHostClearsAFault : Prop :=
  (∀ s t : State, s.fault.code ≠ .none → step s = .next t →
    (s.cycle.reset.isSome = true ∨ s.cycle.command = some .clearFault ∨
      (s.cycle.command = some .restore ∧ s.snap.isSome = true)) ∨ t.fault = s.fault) ∧
  (∀ (s : State) (inputs : Inputs), (s.resetUnit inputs).fault = { code := .none, pc := 0, insn := 0, addr := 0 }) ∧
  (∀ s : State, (s.command .clearFault).fault = { code := .none, pc := 0, insn := 0, addr := 0 }) ∧
  (∀ s : State, s.snap.isSome = true →
    (s.command .restore).fault = { code := .none, pc := 0, insn := 0, addr := 0 }) ∧
  (∀ s t : State, s.stepGiven = true → s.afterHost.fault.code = .none → step s = .next t → t.fault.code ≠ .none →
    step { t.command .clearFault with host := [] } = .next { t with host := [], response := .none })

/-! ## Timers and the host -/

/-- 60_exceptions.md R260. A tick lowers each timer by 1, a timer at 0 stays at 0, and nothing else changes. (That 0
stays 0 is marked there as general knowledge; 92_eei_decisions.md D35, log 25.) -/
def Obligations.TickDecrementsTheTimers : Prop :=
  ∀ s : State, ∃ dt st : Byte,
    s.onTick = { s with m := { s.m with dt := dt, st := st } } ∧
    dt.toNat = s.m.dt.toNat - 1 ∧ st.toNat = s.m.st.toNat - 1

/-- 70_reset_and_hazards.md R298; 92_eei_decisions.md D2. The order within a cycle: a reset makes the rest of the cycle
do nothing; else the host command, if there is one, comes before the tick, if it is given, and the tick before the
step. -/
def Obligations.CycleOrderIsResetCommandTickStep : Prop :=
  (∀ (s : State) (c : Cycle) (rest : List Cycle) (inputs : Inputs), s.host = c :: rest → c.reset = some inputs →
    step s = .next (({ s with host := rest } : State).resetUnit inputs)) ∧
  (∀ (s : State) (c : Cycle) (rest : List Cycle), s.host = c :: rest → c.reset = none →
    let untold : State := { s with host := rest, response := .none }
    let told := c.command.elim untold untold.command
    s.afterHost = (if c.tick then told.onTick else told) ∧
    (c.step = false → step s = .next s.afterHost) ∧
    (c.step = true → Ready s.afterHost → ∀ i, decodeWord (wordAtPc s.afterHost) = .ok i →
      step s = exec i { s.afterHost with status := .ok }))

/-- 60_exceptions.md R265; 92_eei_decisions.md D2. CLEAR_DIRTY clears `dirty`; but where the cycle also has a step, of an
instruction i that sets `dirty` from the cleared state, `dirty` ends set. -/
def Obligations.ClearDirtyYieldsToTheStep : Prop :=
  (∀ s : State, s.command .clearDirty = { s with m := { s.m with dirty := false } }) ∧
  (∀ (s t u : State) (c : Cycle) (rest : List Cycle) (i : Instr), s.host = c :: rest → c.reset = none →
    c.command = some .clearDirty → c.step = true → Ready s → decodeWord (wordAtPc s) = .ok i →
    exec i { s with m := { s.m with dirty := false } } = .next u → u.m.dirty = true →
    step s = .next t → t.m.dirty = true)

/-- 60_exceptions.md R266, R270. What each host command does, and that it does nothing else. -/
def Obligations.HostCommandsAct : Prop :=
  (∀ (s : State) (a : Nat) (b : Byte), a ≤ 0xFFF → ∃ memory : Memory,
    s.command (.loadWrite a b) = { s with m := { s.m with memory := memory } } ∧
    (∀ a', a' ≠ a → Memory.read s.cfg.font a' memory = s.readByte a') ∧
    (Memory.wf s.cfg.font s.m.memory = true → Memory.read s.cfg.font a memory = b)) ∧
  (∀ (s : State) (a : Nat) (b : Byte), 0xFFF < a → s.command (.loadWrite a b) = s) ∧
  (∀ (s : State) (k : Word), s.command (.setKeys k) = { s with m := { s.m with keys := k } }) ∧
  (∀ s : State, s.command .clearDirty = { s with m := { s.m with dirty := false } }) ∧
  (∀ s : State, s.command .clearFault =
    { s with fault := { code := .none, pc := 0, insn := 0, addr := 0 } }) ∧
  (∀ s : State, s.command .save = { s with snap := some s.m }) ∧
  (∀ s : State, s.snap = none → s.command .restore = { s with response := .noSnapshot }) ∧
  (∀ (s : State) (saved : MachineState), s.snap = some saved →
    s.command .restore =
      { s with m := saved, fault := { code := .none, pc := 0, insn := 0, addr := 0 } })

/-- 60_exceptions.md R270. A snapshot rewinds: after a SAVE cycle without tick and step, any number of cycles without
SAVE and reset, and a RESTORE cycle without tick and step, Machine State is what was saved, no fault is latched, and
the snapshot is still held. -/
def Obligations.RestoreRewindsToTheSave : Prop :=
  ∀ (s : State) (between rest : List Cycle),
    s.host = { reset := none, command := some .save, tick := false, step := false } ::
      (between ++ { reset := none, command := some .restore, tick := false, step := false } :: rest) →
    (∀ c ∈ between, c.reset = none ∧ c.command ≠ some .save) →
    ∃ t : State, core.run (between.length + 2) s = .next t ∧ t.m = s.m ∧ t.snap = some s.m ∧
      t.fault = { code := .none, pc := 0, insn := 0, addr := 0 } ∧ t.host = rest

/-- 70_reset_and_hazards.md R291. The loader's cycles, from any state: an image of at most 0xE00 bytes leaves the reset
state with byte i of the image at 0x200 + i and every other byte as reset leaves it; a larger image leaves the state
as reset left it. -/
def Obligations.LoaderPlacesTheImage : Prop :=
  ∀ (s : State) (inputs : Inputs) (image : List Byte) (rest : List Cycle),
    s.host = loaderCycles inputs image ++ rest →
    ∃ t : State, core.run (loaderCycles inputs image).length s = .next t ∧
      t = { ({ s with host := rest } : State).resetUnit inputs with
        m := { MachineState.reset with memory := t.m.memory } } ∧
      (∀ (k : Nat) (h : k < image.length), image.length ≤ 0xE00 → t.readByte (0x200 + k) = image[k]) ∧
      (∀ a, (a < 0x200 ∨ 0x200 + image.length ≤ a ∨ 0xE00 < image.length) →
        t.readByte a = (s.resetUnit inputs).readByte a)

/-! ## Reset and the invariant -/

/-- 10_state.md R37; 70_reset_and_hazards.md R290. What reset leaves, from any state and with any configuration inputs:
the font at 0x000..0x04F, zero elsewhere, `pc` at 0x200, every register, stack entry, timer, pixel and key 0, no fault,
no snapshot, status OK, and the inputs as sampled. The state after the first reset is one of these. -/
def Obligations.ResetLeavesTheListedValues : Prop :=
  (∀ (s : State) (inputs : Inputs), ∃ t : State, s.resetUnit inputs = t ∧
    (∀ (a : Nat) (h : a < 80), t.readByte a = inputs.font[a]) ∧
    (∀ a, 80 ≤ a → a ≤ 0xFFF → t.readByte a = 0) ∧
    (∀ r : RegIdx, t.m.v[r] = 0) ∧ t.m.i = 0 ∧ t.m.pc = 0x200 ∧ (∀ j : Fin 16, t.m.stack[j] = 0) ∧
    t.m.sp = 0 ∧ t.m.dt = 0 ∧ t.m.st = 0 ∧ (∀ p, pixelAt t.m.fb p = false) ∧ t.m.dirty = false ∧ t.m.keys = 0 ∧
    t.fault = { code := .none, pc := 0, insn := 0, addr := 0 } ∧ t.snapValid = false ∧ t.status = .ok ∧
    t.logWord = 0 ∧ t.logPc = 0 ∧ t.cfg = inputs) ∧
  State.reset = State.reset.resetUnit State.reset.cfg

/-- The invariant holds in the reset state, and after a reset of any state. -/
def Obligations.ResetMeetsTheInvariant : Prop :=
  State.reset.Inv ∧ ∀ (s : State) (inputs : Inputs), (s.resetUnit inputs).Inv

/-- 20_memory.md R51; 60_exceptions.md R241, R242, R244. Every cycle of every state that meets the invariant leaves a
state that meets it, whatever the host does in the cycle: memory and snapshot stay canonical, with no byte above
0xFFF, and the fault latch stays consistent with the Machine State it left unchanged. -/
def Obligations.StepKeepsTheInvariant : Prop :=
  ∀ s t : State, s.Inv → step s = .next t → t.Inv

/-! ## Whole-machine rules -/

/-- 30_encoding.md R84. Every instruction moves `pc` as its class says; one that faults leaves it, and so does an unknown
word. -/
def Obligations.PcMovesByClass : Prop :=
  (∀ (i : Instr) (s t : State), s.status = .ok → exec i s = .next t →
    t.m.pc = if t.status = .fault then s.m.pc else nextPc i s) ∧
  (∀ s t : State, s.stepGiven = true → Ready s.afterHost →
    (∃ e, decodeWord (wordAtPc s.afterHost) = .error e) → step s = .next t → t.m.pc = s.afterHost.m.pc)

/-- 10_state.md R22, R23. An instruction changes a general register only if it names it as its destination, is Fx65
with a last register at or above it, or writes VF as a flag. -/
def Obligations.RegistersHaveOnlyTheirWriters : Prop :=
  ∀ (i : Instr) (s t : State) (r : RegIdx), exec i s = .next t → t.m.v[r] ≠ s.m.v[r] → mayWrite i r

/-- 20_memory.md R50, R55, R56. An instruction changes a byte of memory only if it is Fx33 or Fx55 and the byte is one
of those it stores, at `I + k` within memory. -/
def Obligations.MemoryHasOnlyItsWriters : Prop :=
  ∀ (i : Instr) (s t : State) (a : Nat), exec i s = .next t → t.readByte a ≠ s.readByte a →
    ∃ k < storeCount i, a = s.dataAddr k ∧ a ≤ 0xFFF

/-- 10_state.md R25, R26, R27, R29, R30, R38. The writers of the other state: `I` only by Annn, Fx1E, Fx29 and, with
LEGACY_INCREMENT, Fx55 and Fx65; the stack only by 2nnn, `sp` only by 2nnn and 00EE; DT only by Fx15 and ST only by
Fx18, from their register, so no instruction counts a timer down; `dirty` only set, only by 00E0 and Dxyn; and no
instruction writes keys, configuration, snapshot, log, response or the host's schedule. -/
def Obligations.SpecialStateHasOnlyItsWriters : Prop :=
  ∀ (i : Instr) (s t : State), exec i s = .next t →
    (t.m.i ≠ s.m.i → (∃ nnn, i = .ldI nnn) ∨ (∃ x, i = .addI x) ∨ (∃ x, i = .ldF x) ∨
      (s.cfg.legacyIncrement = true ∧ ∃ x, i = .ldMemV x ∨ i = .ldVMem x)) ∧
    (t.m.stack ≠ s.m.stack → ∃ nnn, i = .call nnn) ∧
    (t.m.sp ≠ s.m.sp → (∃ nnn, i = .call nnn) ∨ ∃ ign, i = .ret ign) ∧
    (t.m.dt ≠ s.m.dt → ∃ x, i = .ldDtV x ∧ t.m.dt = s.m.v[x]) ∧
    (t.m.st ≠ s.m.st → ∃ x, i = .ldStV x ∧ t.m.st = s.m.v[x]) ∧
    (t.m.dirty ≠ s.m.dirty → t.m.dirty = true ∧ ((∃ ign, i = .cls ign) ∨ ∃ x y n, i = .drw x y n)) ∧
    t.m.keys = s.m.keys ∧ t.cfg = s.cfg ∧ t.snap = s.snap ∧ t.logWord = s.logWord ∧ t.logPc = s.logPc ∧
    t.response = s.response ∧ t.host = s.host

/-- 40_display.md R123 ("Only CLS, Dxyn and RESTORE change `fb`"), with reset (70_reset_and_hazards.md R290). Pixel
(x, y) is bit `y*64 + x` of the `fb` output. A cycle changes the pixels only if it resets, restores a held snapshot, or
steps CLS or DRW. -/
def Obligations.PixelsHaveOnlyTheirWriters : Prop :=
  (∀ (s : State) (y : Fin 32) (x : Fin 64), s.fbOut ⟨y.val * 64 + x.val, by omega⟩ = pixelAt s.m.fb (y, x)) ∧
  ∀ s t : State, step s = .next t → t.m.fb ≠ s.m.fb →
    s.cycle.reset.isSome = true ∨ (s.cycle.command = some .restore ∧ s.snap.isSome = true) ∨
    (s.stepGiven = true ∧ Ready s.afterHost ∧
      ((∃ ign, decodeWord (wordAtPc s.afterHost) = .ok (.cls ign)) ∨
        ∃ x y n, decodeWord (wordAtPc s.afterHost) = .ok (.drw x y n)))

/-- 10_state.md R38 ("No instruction observes the fault latch or the snapshot"). What an instruction does to Machine
State depends on Machine State, the configuration and the draw alone. -/
def Obligations.InstructionsSeeMachineStateAlone : Prop :=
  ∀ (i : Instr) (s s' t : State), s'.m = s.m → s'.cfg = s.cfg → s'.draws = s.draws → exec i s = .next t →
    ∃ t', exec i s' = .next t' ∧ t'.m = t.m ∧ t'.draws = t.draws

/-! ## Programs' idioms -/

/-- 41_flow.md R141, R142 ("together the two resume after the CALL"). After a CALL, a RET in any state with the same
stack and `sp` resumes at the CALL's address plus 2, with `sp` as before the CALL. -/
def Obligations.RetResumesAfterTheCall : Prop :=
  ∀ (nnn : Addr12) (ign : BitVec 8) (s t u : State), s.m.sp.val < 16 → exec (.call nnn) s = .next t →
    u.m.stack = t.m.stack → u.m.sp = t.m.sp →
    ∃ r : State, exec (.ret ign) u = .next r ∧ r.m.pc = s.m.pc + 2 ∧ r.m.sp = s.m.sp

/-- 95_test_vectors.md W8 (the source §8); 43_index_memory.md R184, R185. Fx55 and then Fx65 with the same x and the `I`
that Fx55 started from restore `v[0..x]`, whatever else happened to the registers between the two. Without
LEGACY_INCREMENT Fx55 leaves that `I`; with it, `I` must be re-pointed before the Fx65. -/
def Obligations.StoreThenLoadRestoresRegisters : Prop :=
  ∀ (x : RegIdx) (s t u : State), Memory.wf s.cfg.font s.m.memory = true → s.m.i.toNat + x.val ≤ 0xFFF →
    exec (.ldMemV x) s = .next t →
    (s.cfg.legacyIncrement = false → t.m.i = s.m.i) ∧
    (u.m.memory = t.m.memory → u.m.i = s.m.i → u.cfg = t.cfg →
      ∃ r : State, exec (.ldVMem x) u = .next r ∧ ∀ k : RegIdx, k.val ≤ x.val → r.m.v[k] = s.m.v[k])

/-- 95_test_vectors.md W9 (the source §8); 40_display.md R121. Drawing the same sprite twice at the same position leaves
the pixels as they were; where the screen was blank under the sprite, VF is 0 after the first draw, and after the second
it is 1 iff the sprite has a set bit. Stated for x and y other than 15, whose register the first draw writes. -/
def Obligations.DrawingTwiceRestoresThePixels : Prop :=
  ∀ (x y : RegIdx) (n : Nat) (s : State), x ≠ 15 → y ≠ 15 → n ≤ 15 → Reaches s n →
    ∃ t u : State, exec (.drw x y n) s = .next t ∧ exec (.drw x y n) t = .next u ∧ u.m.fb = s.m.fb ∧
      ((∀ rc ∈ sourceBits s n, pixelAt s.m.fb (landsOn s x y rc) = false) →
        t.m.v[(15 : RegIdx)] = 0 ∧ (u.m.v[(15 : RegIdx)]).toNat = bit (sourceBits s n ≠ []))

/-- 20_memory.md R62; 70_reset_and_hazards.md R295. Self-modifying code: bytes stored by Fx55 are what a later fetch at
their addresses reads, with no synchronisation. -/
def Obligations.StoredBytesAreFetched : Prop :=
  ∀ (x : RegIdx) (k : Nat) (s t u : State) (h : k + 1 ≤ x.val), Memory.wf s.cfg.font s.m.memory = true →
    s.m.i.toNat + x.val ≤ 0xFFF → exec (.ldMemV x) s = .next t →
    u.m.memory = t.m.memory → u.cfg = t.cfg → u.m.pc.toNat = s.m.i.toNat + k →
    wordAtPc u = s.m.v[k]'(by omega) ++ s.m.v[k + 1]'(by omega)
end

