-- ==== Sys2Proof/Laws/Words.lean ====
section
/-! SUPPORT. Masks of 30_encoding.md R87 as arithmetic, fields of encoded words, and words as two bytes. -/

namespace Sys2Proof

/-! ## Masks -/

theorem and_F000_toNat (w : Word) : (w &&& (0xF000 : Word)).toNat = w.toNat / 0x1000 * 0x1000 := by
  have h : w &&& (0xF000 : Word) = (w >>> 12) <<< 12 := by
    apply BitVec.eq_of_getLsbD_eq; intro j hj; interval_cases j <;> simp
  rw [h]; have := w.isLt; simp; omega

theorem and_FF_toNat (w : Word) : (w &&& (0x00FF : Word)).toNat = w.toNat % 0x100 := by
  have h : w &&& (0x00FF : Word) = (w <<< 8) >>> 8 := by
    apply BitVec.eq_of_getLsbD_eq; intro j hj; interval_cases j <;> simp
  rw [h]; simp; omega

theorem and_F_toNat (w : Word) : (w &&& (0x000F : Word)).toNat = w.toNat % 0x10 := by
  have h : w &&& (0x000F : Word) = (w <<< 12) >>> 12 := by
    apply BitVec.eq_of_getLsbD_eq; intro j hj; interval_cases j <;> simp
  rw [h]; simp; omega

theorem and_F00F_toNat (w : Word) : (w &&& (0xF00F : Word)).toNat = w.toNat / 0x1000 * 0x1000 + w.toNat % 0x10 := by
  have h : w &&& (0xF00F : Word) = (w &&& (0xF000 : Word)) + (w &&& (0x000F : Word)) := by
    rw [BitVec.add_eq_or_of_and_eq_zero]
    · apply BitVec.eq_of_getLsbD_eq; intro j hj; interval_cases j <;> simp
    · apply BitVec.eq_of_getLsbD_eq; intro j hj; interval_cases j <;> simp
  have := w.isLt
  rw [h, BitVec.toNat_add, and_F000_toNat, and_F_toNat]; omega

theorem and_F0FF_toNat (w : Word) : (w &&& (0xF0FF : Word)).toNat = w.toNat / 0x1000 * 0x1000 + w.toNat % 0x100 := by
  have h : w &&& (0xF0FF : Word) = (w &&& (0xF000 : Word)) + (w &&& (0x00FF : Word)) := by
    rw [BitVec.add_eq_or_of_and_eq_zero]
    · apply BitVec.eq_of_getLsbD_eq; intro j hj; interval_cases j <;> simp
    · apply BitVec.eq_of_getLsbD_eq; intro j hj; interval_cases j <;> simp
  have := w.isLt
  rw [h, BitVec.toNat_add, and_F000_toNat, and_FF_toNat]; omega

/-! ## Formats -/

theorem encodeNNN_toNat {f : Nat} (h : f < 16) (nnn : Addr12) : (encodeNNN f nnn).toNat = f * 0x1000 + nnn.toNat := by
  have := nnn.isLt; simp only [encodeNNN, BitVec.toNat_ofNat]; omega

theorem encodeXNN_toNat {f : Nat} (h : f < 16) (x : RegIdx) (nn : Byte) :
    (encodeXNN f x nn).toNat = f * 0x1000 + x.val * 0x100 + nn.toNat := by
  have := nn.isLt; have := x.isLt; simp only [encodeXNN, BitVec.toNat_ofNat]; omega

theorem encodeXYN_toNat {f n : Nat} (h : f < 16) (hn : n < 16) (x y : RegIdx) :
    (encodeXYN f x y n).toNat = f * 0x1000 + x.val * 0x100 + y.val * 0x10 + n := by
  have := x.isLt; have := y.isLt; simp only [encodeXYN, BitVec.toNat_ofNat]; omega

theorem encodeZ_toNat {n : Nat} (hn : n < 16) (ign : BitVec 8) : (encodeZ ign n).toNat = ign.toNat * 0x10 + n := by
  have := ign.isLt; simp only [encodeZ, BitVec.toNat_ofNat]; omega

/-! ## Bytes of a word (20_memory.md R53, R54) -/

/-- Laying a word out as two bytes, high byte first, loses nothing. -/
theorem wordOfBytes_high_low (w : Word) : wordOfBytes (highByte w) (lowByte w) = w := by
  have := w.isLt
  apply BitVec.eq_of_toNat_eq
  simp only [wordOfBytes, highByte, lowByte, BitVec.toNat_ofNat]; omega

/-- The word of two bytes is their concatenation, the high byte first. -/
theorem wordOfBytes_eq_append (hi lo : Byte) : wordOfBytes hi lo = hi ++ lo := by
  have := hi.isLt; have := lo.isLt
  apply BitVec.eq_of_toNat_eq
  rw [BitVec.toNat_append, Nat.shiftLeft_eq, Nat.mul_comm, ← Nat.two_pow_add_eq_or_of_lt lo.isLt]
  simp only [wordOfBytes, BitVec.toNat_ofNat]; omega

theorem highByte_wordOfBytes (hi lo : Byte) : highByte (wordOfBytes hi lo) = hi := by
  have := hi.isLt; have := lo.isLt
  apply BitVec.eq_of_toNat_eq
  simp only [wordOfBytes, highByte, BitVec.toNat_ofNat]; omega

theorem lowByte_wordOfBytes (hi lo : Byte) : lowByte (wordOfBytes hi lo) = lo := by
  have := hi.isLt; have := lo.isLt
  apply BitVec.eq_of_toNat_eq
  simp only [wordOfBytes, lowByte, BitVec.toNat_ofNat]; omega

end Sys2Proof
end

