-- ==== Sys2Proof/Laws/Decode.lean ====
section
/-! SUPPORT. Every way decoding can end, said once (30_encoding.md R86). -/

namespace Sys2Proof

theorem fieldF_lt (w : Word) : fieldF w < 16 := by
  have := w.isLt; simp only [fieldF]; omega

theorem fieldN_lt (w : Word) : fieldN w < 16 := Nat.mod_lt _ (by decide)

theorem fieldNN_toNat (w : Word) : (fieldNN w).toNat = w.toNat % 0x100 := by simp [fieldNN]

/-- Family 0x0 splits on its low nibble. -/
theorem decodeFamily0_cases (w : Word) :
    (fieldN w = 0x0 ∧ decodeFamily0 w = .ok (.cls (fieldIgn0 w))) ∨
    (fieldN w = 0xE ∧ decodeFamily0 w = .ok (.ret (fieldIgn0 w))) ∨
    (fieldN w ∉ [0x0, 0xE] ∧ decodeFamily0 w = .error .unknownFamily0) := by
  unfold decodeFamily0; split <;> simp_all

/-- Family 0x8 splits on its low nibble. -/
theorem decodeFamily8_cases (w : Word) :
    (fieldN w = 0x0 ∧ decodeFamily8 w = .ok (.ldReg (fieldX w) (fieldY w))) ∨
    (fieldN w = 0x2 ∧ decodeFamily8 w = .ok (.andReg (fieldX w) (fieldY w))) ∨
    (fieldN w = 0x3 ∧ decodeFamily8 w = .ok (.xorReg (fieldX w) (fieldY w))) ∨
    (fieldN w = 0x4 ∧ decodeFamily8 w = .ok (.addReg (fieldX w) (fieldY w))) ∨
    (fieldN w = 0x5 ∧ decodeFamily8 w = .ok (.subReg (fieldX w) (fieldY w))) ∨
    (fieldN w = 0x6 ∧ decodeFamily8 w = .ok (.shr (fieldX w) (fieldY w))) ∨
    (fieldN w ∉ [0x0, 0x2, 0x3, 0x4, 0x5, 0x6] ∧ decodeFamily8 w = .error .unknownFamily8) := by
  unfold decodeFamily8; split <;> simp_all

/-- Family 0xE splits on its low byte. -/
theorem decodeFamilyE_cases (w : Word) :
    ((fieldNN w).toNat = 0x9E ∧ decodeFamilyE w = .ok (.skp (fieldX w))) ∨
    ((fieldNN w).toNat = 0xA1 ∧ decodeFamilyE w = .ok (.sknp (fieldX w))) ∨
    ((fieldNN w).toNat ∉ [0x9E, 0xA1] ∧ decodeFamilyE w = .error .unknownFamilyE) := by
  unfold decodeFamilyE; split <;> simp_all

/-- Family 0xF splits on its low byte. -/
theorem decodeFamilyF_cases (w : Word) :
    ((fieldNN w).toNat = 0x07 ∧ decodeFamilyF w = .ok (.ldVDt (fieldX w))) ∨
    ((fieldNN w).toNat = 0x0A ∧ decodeFamilyF w = .ok (.ldVK (fieldX w))) ∨
    ((fieldNN w).toNat = 0x15 ∧ decodeFamilyF w = .ok (.ldDtV (fieldX w))) ∨
    ((fieldNN w).toNat = 0x18 ∧ decodeFamilyF w = .ok (.ldStV (fieldX w))) ∨
    ((fieldNN w).toNat = 0x1E ∧ decodeFamilyF w = .ok (.addI (fieldX w))) ∨
    ((fieldNN w).toNat = 0x29 ∧ decodeFamilyF w = .ok (.ldF (fieldX w))) ∨
    ((fieldNN w).toNat = 0x33 ∧ decodeFamilyF w = .ok (.ldB (fieldX w))) ∨
    ((fieldNN w).toNat = 0x55 ∧ decodeFamilyF w = .ok (.ldMemV (fieldX w))) ∨
    ((fieldNN w).toNat = 0x65 ∧ decodeFamilyF w = .ok (.ldVMem (fieldX w))) ∨
    ((fieldNN w).toNat ∉ [0x07, 0x0A, 0x15, 0x18, 0x1E, 0x29, 0x33, 0x55, 0x65] ∧
      decodeFamilyF w = .error .unknownFamilyF) := by
  unfold decodeFamilyF; split <;> simp_all

/-- The first level: one family nibble, one way to go on. -/
theorem decodeWord_cases (w : Word) :
    (fieldF w = 0x0 ∧ decodeWord w = decodeFamily0 w) ∨
    (fieldF w = 0x1 ∧ decodeWord w = .ok (.jp (fieldNNN w))) ∨
    (fieldF w = 0x2 ∧ decodeWord w = .ok (.call (fieldNNN w))) ∨
    (fieldF w = 0x3 ∧ decodeWord w = .ok (.seImm (fieldX w) (fieldNN w))) ∨
    (fieldF w = 0x4 ∧ decodeWord w = .ok (.sneImm (fieldX w) (fieldNN w))) ∨
    (fieldF w = 0x5 ∧ decodeWord w = .error .unknownFamily5) ∨
    (fieldF w = 0x6 ∧ decodeWord w = .ok (.ldImm (fieldX w) (fieldNN w))) ∨
    (fieldF w = 0x7 ∧ decodeWord w = .ok (.addImm (fieldX w) (fieldNN w))) ∨
    (fieldF w = 0x8 ∧ decodeWord w = decodeFamily8 w) ∨
    (fieldF w = 0x9 ∧ decodeWord w = .ok (.sneReg (fieldX w) (fieldY w) (fieldIgn9 w))) ∨
    (fieldF w = 0xA ∧ decodeWord w = .ok (.ldI (fieldNNN w))) ∨
    (fieldF w = 0xB ∧ decodeWord w = .error .unknownFamilyB) ∨
    (fieldF w = 0xC ∧ decodeWord w = .ok (.rnd (fieldX w) (fieldNN w))) ∨
    (fieldF w = 0xD ∧ decodeWord w = .ok (.drw (fieldX w) (fieldY w) (fieldN w))) ∨
    (fieldF w = 0xE ∧ decodeWord w = decodeFamilyE w) ∨
    (fieldF w = 0xF ∧ decodeWord w = decodeFamilyF w) := by
  have := fieldF_lt w
  unfold decodeWord; split <;> simp_all
  omega

end Sys2Proof
end

