-- ==== Sys2Proof/Laws/State.lean ====
section
/-! SUPPORT. What each update of the state leaves in each field: one lemma per field per update. -/

namespace Sys2Proof.Machine

variable (s : State)

/-! ### setReg -/

@[simp] theorem State.setReg_memory (x : RegIdx) (b : Byte) : (s.setReg x b).m.memory = s.m.memory := rfl
@[simp] theorem State.setReg_pc (x : RegIdx) (b : Byte) : (s.setReg x b).m.pc = s.m.pc := rfl
@[simp] theorem State.setReg_stack (x : RegIdx) (b : Byte) : (s.setReg x b).m.stack = s.m.stack := rfl
@[simp] theorem State.setReg_sp (x : RegIdx) (b : Byte) : (s.setReg x b).m.sp = s.m.sp := rfl
@[simp] theorem State.setReg_i (x : RegIdx) (b : Byte) : (s.setReg x b).m.i = s.m.i := rfl
@[simp] theorem State.setReg_v (x : RegIdx) (b : Byte) : (s.setReg x b).m.v = s.m.v.set x.val b := rfl
@[simp] theorem State.setReg_dt (x : RegIdx) (b : Byte) : (s.setReg x b).m.dt = s.m.dt := rfl
@[simp] theorem State.setReg_st (x : RegIdx) (b : Byte) : (s.setReg x b).m.st = s.m.st := rfl
@[simp] theorem State.setReg_fb (x : RegIdx) (b : Byte) : (s.setReg x b).m.fb = s.m.fb := rfl
@[simp] theorem State.setReg_dirty (x : RegIdx) (b : Byte) : (s.setReg x b).m.dirty = s.m.dirty := rfl
@[simp] theorem State.setReg_keys (x : RegIdx) (b : Byte) : (s.setReg x b).m.keys = s.m.keys := rfl
@[simp] theorem State.setReg_cfg (x : RegIdx) (b : Byte) : (s.setReg x b).cfg = s.cfg := rfl
@[simp] theorem State.setReg_fault (x : RegIdx) (b : Byte) : (s.setReg x b).fault = s.fault := rfl
@[simp] theorem State.setReg_snap (x : RegIdx) (b : Byte) : (s.setReg x b).snap = s.snap := rfl
@[simp] theorem State.setReg_status (x : RegIdx) (b : Byte) : (s.setReg x b).status = s.status := rfl
@[simp] theorem State.setReg_logWord (x : RegIdx) (b : Byte) : (s.setReg x b).logWord = s.logWord := rfl
@[simp] theorem State.setReg_logPc (x : RegIdx) (b : Byte) : (s.setReg x b).logPc = s.logPc := rfl
@[simp] theorem State.setReg_response (x : RegIdx) (b : Byte) : (s.setReg x b).response = s.response := rfl
@[simp] theorem State.setReg_draws (x : RegIdx) (b : Byte) : (s.setReg x b).draws = s.draws := rfl
@[simp] theorem State.setReg_host (x : RegIdx) (b : Byte) : (s.setReg x b).host = s.host := rfl

/-! ### setPc -/

@[simp] theorem State.setPc_memory (w : Word) : (s.setPc w).m.memory = s.m.memory := rfl
@[simp] theorem State.setPc_pc (w : Word) : (s.setPc w).m.pc = w := rfl
@[simp] theorem State.setPc_stack (w : Word) : (s.setPc w).m.stack = s.m.stack := rfl
@[simp] theorem State.setPc_sp (w : Word) : (s.setPc w).m.sp = s.m.sp := rfl
@[simp] theorem State.setPc_i (w : Word) : (s.setPc w).m.i = s.m.i := rfl
@[simp] theorem State.setPc_v (w : Word) : (s.setPc w).m.v = s.m.v := rfl
@[simp] theorem State.setPc_dt (w : Word) : (s.setPc w).m.dt = s.m.dt := rfl
@[simp] theorem State.setPc_st (w : Word) : (s.setPc w).m.st = s.m.st := rfl
@[simp] theorem State.setPc_fb (w : Word) : (s.setPc w).m.fb = s.m.fb := rfl
@[simp] theorem State.setPc_dirty (w : Word) : (s.setPc w).m.dirty = s.m.dirty := rfl
@[simp] theorem State.setPc_keys (w : Word) : (s.setPc w).m.keys = s.m.keys := rfl
@[simp] theorem State.setPc_cfg (w : Word) : (s.setPc w).cfg = s.cfg := rfl
@[simp] theorem State.setPc_fault (w : Word) : (s.setPc w).fault = s.fault := rfl
@[simp] theorem State.setPc_snap (w : Word) : (s.setPc w).snap = s.snap := rfl
@[simp] theorem State.setPc_status (w : Word) : (s.setPc w).status = s.status := rfl
@[simp] theorem State.setPc_logWord (w : Word) : (s.setPc w).logWord = s.logWord := rfl
@[simp] theorem State.setPc_logPc (w : Word) : (s.setPc w).logPc = s.logPc := rfl
@[simp] theorem State.setPc_response (w : Word) : (s.setPc w).response = s.response := rfl
@[simp] theorem State.setPc_draws (w : Word) : (s.setPc w).draws = s.draws := rfl
@[simp] theorem State.setPc_host (w : Word) : (s.setPc w).host = s.host := rfl

/-! ### setI -/

@[simp] theorem State.setI_memory (w : Word) : (s.setI w).m.memory = s.m.memory := rfl
@[simp] theorem State.setI_pc (w : Word) : (s.setI w).m.pc = s.m.pc := rfl
@[simp] theorem State.setI_stack (w : Word) : (s.setI w).m.stack = s.m.stack := rfl
@[simp] theorem State.setI_sp (w : Word) : (s.setI w).m.sp = s.m.sp := rfl
@[simp] theorem State.setI_i (w : Word) : (s.setI w).m.i = w := rfl
@[simp] theorem State.setI_v (w : Word) : (s.setI w).m.v = s.m.v := rfl
@[simp] theorem State.setI_dt (w : Word) : (s.setI w).m.dt = s.m.dt := rfl
@[simp] theorem State.setI_st (w : Word) : (s.setI w).m.st = s.m.st := rfl
@[simp] theorem State.setI_fb (w : Word) : (s.setI w).m.fb = s.m.fb := rfl
@[simp] theorem State.setI_dirty (w : Word) : (s.setI w).m.dirty = s.m.dirty := rfl
@[simp] theorem State.setI_keys (w : Word) : (s.setI w).m.keys = s.m.keys := rfl
@[simp] theorem State.setI_cfg (w : Word) : (s.setI w).cfg = s.cfg := rfl
@[simp] theorem State.setI_fault (w : Word) : (s.setI w).fault = s.fault := rfl
@[simp] theorem State.setI_snap (w : Word) : (s.setI w).snap = s.snap := rfl
@[simp] theorem State.setI_status (w : Word) : (s.setI w).status = s.status := rfl
@[simp] theorem State.setI_logWord (w : Word) : (s.setI w).logWord = s.logWord := rfl
@[simp] theorem State.setI_logPc (w : Word) : (s.setI w).logPc = s.logPc := rfl
@[simp] theorem State.setI_response (w : Word) : (s.setI w).response = s.response := rfl
@[simp] theorem State.setI_draws (w : Word) : (s.setI w).draws = s.draws := rfl
@[simp] theorem State.setI_host (w : Word) : (s.setI w).host = s.host := rfl

/-! ### setDt -/

@[simp] theorem State.setDt_memory (b : Byte) : (s.setDt b).m.memory = s.m.memory := rfl
@[simp] theorem State.setDt_pc (b : Byte) : (s.setDt b).m.pc = s.m.pc := rfl
@[simp] theorem State.setDt_stack (b : Byte) : (s.setDt b).m.stack = s.m.stack := rfl
@[simp] theorem State.setDt_sp (b : Byte) : (s.setDt b).m.sp = s.m.sp := rfl
@[simp] theorem State.setDt_i (b : Byte) : (s.setDt b).m.i = s.m.i := rfl
@[simp] theorem State.setDt_v (b : Byte) : (s.setDt b).m.v = s.m.v := rfl
@[simp] theorem State.setDt_dt (b : Byte) : (s.setDt b).m.dt = b := rfl
@[simp] theorem State.setDt_st (b : Byte) : (s.setDt b).m.st = s.m.st := rfl
@[simp] theorem State.setDt_fb (b : Byte) : (s.setDt b).m.fb = s.m.fb := rfl
@[simp] theorem State.setDt_dirty (b : Byte) : (s.setDt b).m.dirty = s.m.dirty := rfl
@[simp] theorem State.setDt_keys (b : Byte) : (s.setDt b).m.keys = s.m.keys := rfl
@[simp] theorem State.setDt_cfg (b : Byte) : (s.setDt b).cfg = s.cfg := rfl
@[simp] theorem State.setDt_fault (b : Byte) : (s.setDt b).fault = s.fault := rfl
@[simp] theorem State.setDt_snap (b : Byte) : (s.setDt b).snap = s.snap := rfl
@[simp] theorem State.setDt_status (b : Byte) : (s.setDt b).status = s.status := rfl
@[simp] theorem State.setDt_logWord (b : Byte) : (s.setDt b).logWord = s.logWord := rfl
@[simp] theorem State.setDt_logPc (b : Byte) : (s.setDt b).logPc = s.logPc := rfl
@[simp] theorem State.setDt_response (b : Byte) : (s.setDt b).response = s.response := rfl
@[simp] theorem State.setDt_draws (b : Byte) : (s.setDt b).draws = s.draws := rfl
@[simp] theorem State.setDt_host (b : Byte) : (s.setDt b).host = s.host := rfl

/-! ### setSt -/

@[simp] theorem State.setSt_memory (b : Byte) : (s.setSt b).m.memory = s.m.memory := rfl
@[simp] theorem State.setSt_pc (b : Byte) : (s.setSt b).m.pc = s.m.pc := rfl
@[simp] theorem State.setSt_stack (b : Byte) : (s.setSt b).m.stack = s.m.stack := rfl
@[simp] theorem State.setSt_sp (b : Byte) : (s.setSt b).m.sp = s.m.sp := rfl
@[simp] theorem State.setSt_i (b : Byte) : (s.setSt b).m.i = s.m.i := rfl
@[simp] theorem State.setSt_v (b : Byte) : (s.setSt b).m.v = s.m.v := rfl
@[simp] theorem State.setSt_dt (b : Byte) : (s.setSt b).m.dt = s.m.dt := rfl
@[simp] theorem State.setSt_st (b : Byte) : (s.setSt b).m.st = b := rfl
@[simp] theorem State.setSt_fb (b : Byte) : (s.setSt b).m.fb = s.m.fb := rfl
@[simp] theorem State.setSt_dirty (b : Byte) : (s.setSt b).m.dirty = s.m.dirty := rfl
@[simp] theorem State.setSt_keys (b : Byte) : (s.setSt b).m.keys = s.m.keys := rfl
@[simp] theorem State.setSt_cfg (b : Byte) : (s.setSt b).cfg = s.cfg := rfl
@[simp] theorem State.setSt_fault (b : Byte) : (s.setSt b).fault = s.fault := rfl
@[simp] theorem State.setSt_snap (b : Byte) : (s.setSt b).snap = s.snap := rfl
@[simp] theorem State.setSt_status (b : Byte) : (s.setSt b).status = s.status := rfl
@[simp] theorem State.setSt_logWord (b : Byte) : (s.setSt b).logWord = s.logWord := rfl
@[simp] theorem State.setSt_logPc (b : Byte) : (s.setSt b).logPc = s.logPc := rfl
@[simp] theorem State.setSt_response (b : Byte) : (s.setSt b).response = s.response := rfl
@[simp] theorem State.setSt_draws (b : Byte) : (s.setSt b).draws = s.draws := rfl
@[simp] theorem State.setSt_host (b : Byte) : (s.setSt b).host = s.host := rfl

/-! ### setFb -/

@[simp] theorem State.setFb_memory (f : Framebuffer) : (s.setFb f).m.memory = s.m.memory := rfl
@[simp] theorem State.setFb_pc (f : Framebuffer) : (s.setFb f).m.pc = s.m.pc := rfl
@[simp] theorem State.setFb_stack (f : Framebuffer) : (s.setFb f).m.stack = s.m.stack := rfl
@[simp] theorem State.setFb_sp (f : Framebuffer) : (s.setFb f).m.sp = s.m.sp := rfl
@[simp] theorem State.setFb_i (f : Framebuffer) : (s.setFb f).m.i = s.m.i := rfl
@[simp] theorem State.setFb_v (f : Framebuffer) : (s.setFb f).m.v = s.m.v := rfl
@[simp] theorem State.setFb_dt (f : Framebuffer) : (s.setFb f).m.dt = s.m.dt := rfl
@[simp] theorem State.setFb_st (f : Framebuffer) : (s.setFb f).m.st = s.m.st := rfl
@[simp] theorem State.setFb_fb (f : Framebuffer) : (s.setFb f).m.fb = f := rfl
@[simp] theorem State.setFb_dirty (f : Framebuffer) : (s.setFb f).m.dirty = s.m.dirty := rfl
@[simp] theorem State.setFb_keys (f : Framebuffer) : (s.setFb f).m.keys = s.m.keys := rfl
@[simp] theorem State.setFb_cfg (f : Framebuffer) : (s.setFb f).cfg = s.cfg := rfl
@[simp] theorem State.setFb_fault (f : Framebuffer) : (s.setFb f).fault = s.fault := rfl
@[simp] theorem State.setFb_snap (f : Framebuffer) : (s.setFb f).snap = s.snap := rfl
@[simp] theorem State.setFb_status (f : Framebuffer) : (s.setFb f).status = s.status := rfl
@[simp] theorem State.setFb_logWord (f : Framebuffer) : (s.setFb f).logWord = s.logWord := rfl
@[simp] theorem State.setFb_logPc (f : Framebuffer) : (s.setFb f).logPc = s.logPc := rfl
@[simp] theorem State.setFb_response (f : Framebuffer) : (s.setFb f).response = s.response := rfl
@[simp] theorem State.setFb_draws (f : Framebuffer) : (s.setFb f).draws = s.draws := rfl
@[simp] theorem State.setFb_host (f : Framebuffer) : (s.setFb f).host = s.host := rfl

/-! ### setDirty -/

@[simp] theorem State.setDirty_memory (d : Bool) : (s.setDirty d).m.memory = s.m.memory := rfl
@[simp] theorem State.setDirty_pc (d : Bool) : (s.setDirty d).m.pc = s.m.pc := rfl
@[simp] theorem State.setDirty_stack (d : Bool) : (s.setDirty d).m.stack = s.m.stack := rfl
@[simp] theorem State.setDirty_sp (d : Bool) : (s.setDirty d).m.sp = s.m.sp := rfl
@[simp] theorem State.setDirty_i (d : Bool) : (s.setDirty d).m.i = s.m.i := rfl
@[simp] theorem State.setDirty_v (d : Bool) : (s.setDirty d).m.v = s.m.v := rfl
@[simp] theorem State.setDirty_dt (d : Bool) : (s.setDirty d).m.dt = s.m.dt := rfl
@[simp] theorem State.setDirty_st (d : Bool) : (s.setDirty d).m.st = s.m.st := rfl
@[simp] theorem State.setDirty_fb (d : Bool) : (s.setDirty d).m.fb = s.m.fb := rfl
@[simp] theorem State.setDirty_dirty (d : Bool) : (s.setDirty d).m.dirty = d := rfl
@[simp] theorem State.setDirty_keys (d : Bool) : (s.setDirty d).m.keys = s.m.keys := rfl
@[simp] theorem State.setDirty_cfg (d : Bool) : (s.setDirty d).cfg = s.cfg := rfl
@[simp] theorem State.setDirty_fault (d : Bool) : (s.setDirty d).fault = s.fault := rfl
@[simp] theorem State.setDirty_snap (d : Bool) : (s.setDirty d).snap = s.snap := rfl
@[simp] theorem State.setDirty_status (d : Bool) : (s.setDirty d).status = s.status := rfl
@[simp] theorem State.setDirty_logWord (d : Bool) : (s.setDirty d).logWord = s.logWord := rfl
@[simp] theorem State.setDirty_logPc (d : Bool) : (s.setDirty d).logPc = s.logPc := rfl
@[simp] theorem State.setDirty_response (d : Bool) : (s.setDirty d).response = s.response := rfl
@[simp] theorem State.setDirty_draws (d : Bool) : (s.setDirty d).draws = s.draws := rfl
@[simp] theorem State.setDirty_host (d : Bool) : (s.setDirty d).host = s.host := rfl

/-! ### setKeys -/

@[simp] theorem State.setKeys_memory (k : Word) : (s.setKeys k).m.memory = s.m.memory := rfl
@[simp] theorem State.setKeys_pc (k : Word) : (s.setKeys k).m.pc = s.m.pc := rfl
@[simp] theorem State.setKeys_stack (k : Word) : (s.setKeys k).m.stack = s.m.stack := rfl
@[simp] theorem State.setKeys_sp (k : Word) : (s.setKeys k).m.sp = s.m.sp := rfl
@[simp] theorem State.setKeys_i (k : Word) : (s.setKeys k).m.i = s.m.i := rfl
@[simp] theorem State.setKeys_v (k : Word) : (s.setKeys k).m.v = s.m.v := rfl
@[simp] theorem State.setKeys_dt (k : Word) : (s.setKeys k).m.dt = s.m.dt := rfl
@[simp] theorem State.setKeys_st (k : Word) : (s.setKeys k).m.st = s.m.st := rfl
@[simp] theorem State.setKeys_fb (k : Word) : (s.setKeys k).m.fb = s.m.fb := rfl
@[simp] theorem State.setKeys_dirty (k : Word) : (s.setKeys k).m.dirty = s.m.dirty := rfl
@[simp] theorem State.setKeys_keys (k : Word) : (s.setKeys k).m.keys = k := rfl
@[simp] theorem State.setKeys_cfg (k : Word) : (s.setKeys k).cfg = s.cfg := rfl
@[simp] theorem State.setKeys_fault (k : Word) : (s.setKeys k).fault = s.fault := rfl
@[simp] theorem State.setKeys_snap (k : Word) : (s.setKeys k).snap = s.snap := rfl
@[simp] theorem State.setKeys_status (k : Word) : (s.setKeys k).status = s.status := rfl
@[simp] theorem State.setKeys_logWord (k : Word) : (s.setKeys k).logWord = s.logWord := rfl
@[simp] theorem State.setKeys_logPc (k : Word) : (s.setKeys k).logPc = s.logPc := rfl
@[simp] theorem State.setKeys_response (k : Word) : (s.setKeys k).response = s.response := rfl
@[simp] theorem State.setKeys_draws (k : Word) : (s.setKeys k).draws = s.draws := rfl
@[simp] theorem State.setKeys_host (k : Word) : (s.setKeys k).host = s.host := rfl

/-! ### setStack -/

@[simp] theorem State.setStack_memory (j : Fin 16) (w : Word) : (s.setStack j w).m.memory = s.m.memory := rfl
@[simp] theorem State.setStack_pc (j : Fin 16) (w : Word) : (s.setStack j w).m.pc = s.m.pc := rfl
@[simp] theorem State.setStack_stack (j : Fin 16) (w : Word) : (s.setStack j w).m.stack = s.m.stack.set j.val w := rfl
@[simp] theorem State.setStack_sp (j : Fin 16) (w : Word) : (s.setStack j w).m.sp = s.m.sp := rfl
@[simp] theorem State.setStack_i (j : Fin 16) (w : Word) : (s.setStack j w).m.i = s.m.i := rfl
@[simp] theorem State.setStack_v (j : Fin 16) (w : Word) : (s.setStack j w).m.v = s.m.v := rfl
@[simp] theorem State.setStack_dt (j : Fin 16) (w : Word) : (s.setStack j w).m.dt = s.m.dt := rfl
@[simp] theorem State.setStack_st (j : Fin 16) (w : Word) : (s.setStack j w).m.st = s.m.st := rfl
@[simp] theorem State.setStack_fb (j : Fin 16) (w : Word) : (s.setStack j w).m.fb = s.m.fb := rfl
@[simp] theorem State.setStack_dirty (j : Fin 16) (w : Word) : (s.setStack j w).m.dirty = s.m.dirty := rfl
@[simp] theorem State.setStack_keys (j : Fin 16) (w : Word) : (s.setStack j w).m.keys = s.m.keys := rfl
@[simp] theorem State.setStack_cfg (j : Fin 16) (w : Word) : (s.setStack j w).cfg = s.cfg := rfl
@[simp] theorem State.setStack_fault (j : Fin 16) (w : Word) : (s.setStack j w).fault = s.fault := rfl
@[simp] theorem State.setStack_snap (j : Fin 16) (w : Word) : (s.setStack j w).snap = s.snap := rfl
@[simp] theorem State.setStack_status (j : Fin 16) (w : Word) : (s.setStack j w).status = s.status := rfl
@[simp] theorem State.setStack_logWord (j : Fin 16) (w : Word) : (s.setStack j w).logWord = s.logWord := rfl
@[simp] theorem State.setStack_logPc (j : Fin 16) (w : Word) : (s.setStack j w).logPc = s.logPc := rfl
@[simp] theorem State.setStack_response (j : Fin 16) (w : Word) : (s.setStack j w).response = s.response := rfl
@[simp] theorem State.setStack_draws (j : Fin 16) (w : Word) : (s.setStack j w).draws = s.draws := rfl
@[simp] theorem State.setStack_host (j : Fin 16) (w : Word) : (s.setStack j w).host = s.host := rfl

/-! ### setSp -/

@[simp] theorem State.setSp_memory (k : Fin 17) : (s.setSp k).m.memory = s.m.memory := rfl
@[simp] theorem State.setSp_pc (k : Fin 17) : (s.setSp k).m.pc = s.m.pc := rfl
@[simp] theorem State.setSp_stack (k : Fin 17) : (s.setSp k).m.stack = s.m.stack := rfl
@[simp] theorem State.setSp_sp (k : Fin 17) : (s.setSp k).m.sp = k := rfl
@[simp] theorem State.setSp_i (k : Fin 17) : (s.setSp k).m.i = s.m.i := rfl
@[simp] theorem State.setSp_v (k : Fin 17) : (s.setSp k).m.v = s.m.v := rfl
@[simp] theorem State.setSp_dt (k : Fin 17) : (s.setSp k).m.dt = s.m.dt := rfl
@[simp] theorem State.setSp_st (k : Fin 17) : (s.setSp k).m.st = s.m.st := rfl
@[simp] theorem State.setSp_fb (k : Fin 17) : (s.setSp k).m.fb = s.m.fb := rfl
@[simp] theorem State.setSp_dirty (k : Fin 17) : (s.setSp k).m.dirty = s.m.dirty := rfl
@[simp] theorem State.setSp_keys (k : Fin 17) : (s.setSp k).m.keys = s.m.keys := rfl
@[simp] theorem State.setSp_cfg (k : Fin 17) : (s.setSp k).cfg = s.cfg := rfl
@[simp] theorem State.setSp_fault (k : Fin 17) : (s.setSp k).fault = s.fault := rfl
@[simp] theorem State.setSp_snap (k : Fin 17) : (s.setSp k).snap = s.snap := rfl
@[simp] theorem State.setSp_status (k : Fin 17) : (s.setSp k).status = s.status := rfl
@[simp] theorem State.setSp_logWord (k : Fin 17) : (s.setSp k).logWord = s.logWord := rfl
@[simp] theorem State.setSp_logPc (k : Fin 17) : (s.setSp k).logPc = s.logPc := rfl
@[simp] theorem State.setSp_response (k : Fin 17) : (s.setSp k).response = s.response := rfl
@[simp] theorem State.setSp_draws (k : Fin 17) : (s.setSp k).draws = s.draws := rfl
@[simp] theorem State.setSp_host (k : Fin 17) : (s.setSp k).host = s.host := rfl

/-! ### writeByte -/

@[simp] theorem State.writeByte_memory (a : Nat) (b : Byte) : (s.writeByte a b).m.memory = Memory.write s.cfg.font a b s.m.memory := rfl
@[simp] theorem State.writeByte_pc (a : Nat) (b : Byte) : (s.writeByte a b).m.pc = s.m.pc := rfl
@[simp] theorem State.writeByte_stack (a : Nat) (b : Byte) : (s.writeByte a b).m.stack = s.m.stack := rfl
@[simp] theorem State.writeByte_sp (a : Nat) (b : Byte) : (s.writeByte a b).m.sp = s.m.sp := rfl
@[simp] theorem State.writeByte_i (a : Nat) (b : Byte) : (s.writeByte a b).m.i = s.m.i := rfl
@[simp] theorem State.writeByte_v (a : Nat) (b : Byte) : (s.writeByte a b).m.v = s.m.v := rfl
@[simp] theorem State.writeByte_dt (a : Nat) (b : Byte) : (s.writeByte a b).m.dt = s.m.dt := rfl
@[simp] theorem State.writeByte_st (a : Nat) (b : Byte) : (s.writeByte a b).m.st = s.m.st := rfl
@[simp] theorem State.writeByte_fb (a : Nat) (b : Byte) : (s.writeByte a b).m.fb = s.m.fb := rfl
@[simp] theorem State.writeByte_dirty (a : Nat) (b : Byte) : (s.writeByte a b).m.dirty = s.m.dirty := rfl
@[simp] theorem State.writeByte_keys (a : Nat) (b : Byte) : (s.writeByte a b).m.keys = s.m.keys := rfl
@[simp] theorem State.writeByte_cfg (a : Nat) (b : Byte) : (s.writeByte a b).cfg = s.cfg := rfl
@[simp] theorem State.writeByte_fault (a : Nat) (b : Byte) : (s.writeByte a b).fault = s.fault := rfl
@[simp] theorem State.writeByte_snap (a : Nat) (b : Byte) : (s.writeByte a b).snap = s.snap := rfl
@[simp] theorem State.writeByte_status (a : Nat) (b : Byte) : (s.writeByte a b).status = s.status := rfl
@[simp] theorem State.writeByte_logWord (a : Nat) (b : Byte) : (s.writeByte a b).logWord = s.logWord := rfl
@[simp] theorem State.writeByte_logPc (a : Nat) (b : Byte) : (s.writeByte a b).logPc = s.logPc := rfl
@[simp] theorem State.writeByte_response (a : Nat) (b : Byte) : (s.writeByte a b).response = s.response := rfl
@[simp] theorem State.writeByte_draws (a : Nat) (b : Byte) : (s.writeByte a b).draws = s.draws := rfl
@[simp] theorem State.writeByte_host (a : Nat) (b : Byte) : (s.writeByte a b).host = s.host := rfl

/-! ### advance -/

@[simp] theorem State.advance_memory : (s.advance).m.memory = s.m.memory := rfl
@[simp] theorem State.advance_pc : (s.advance).m.pc = s.m.pc + 2 := rfl
@[simp] theorem State.advance_stack : (s.advance).m.stack = s.m.stack := rfl
@[simp] theorem State.advance_sp : (s.advance).m.sp = s.m.sp := rfl
@[simp] theorem State.advance_i : (s.advance).m.i = s.m.i := rfl
@[simp] theorem State.advance_v : (s.advance).m.v = s.m.v := rfl
@[simp] theorem State.advance_dt : (s.advance).m.dt = s.m.dt := rfl
@[simp] theorem State.advance_st : (s.advance).m.st = s.m.st := rfl
@[simp] theorem State.advance_fb : (s.advance).m.fb = s.m.fb := rfl
@[simp] theorem State.advance_dirty : (s.advance).m.dirty = s.m.dirty := rfl
@[simp] theorem State.advance_keys : (s.advance).m.keys = s.m.keys := rfl
@[simp] theorem State.advance_cfg : (s.advance).cfg = s.cfg := rfl
@[simp] theorem State.advance_fault : (s.advance).fault = s.fault := rfl
@[simp] theorem State.advance_snap : (s.advance).snap = s.snap := rfl
@[simp] theorem State.advance_status : (s.advance).status = s.status := rfl
@[simp] theorem State.advance_logWord : (s.advance).logWord = s.logWord := rfl
@[simp] theorem State.advance_logPc : (s.advance).logPc = s.logPc := rfl
@[simp] theorem State.advance_response : (s.advance).response = s.response := rfl
@[simp] theorem State.advance_draws : (s.advance).draws = s.draws := rfl
@[simp] theorem State.advance_host : (s.advance).host = s.host := rfl

/-! ### skipIf -/

@[simp] theorem State.skipIf_memory (c : Bool) : (s.skipIf c).m.memory = s.m.memory := rfl
@[simp] theorem State.skipIf_pc (c : Bool) : (s.skipIf c).m.pc = s.m.pc + if c then 4 else 2 := rfl
@[simp] theorem State.skipIf_stack (c : Bool) : (s.skipIf c).m.stack = s.m.stack := rfl
@[simp] theorem State.skipIf_sp (c : Bool) : (s.skipIf c).m.sp = s.m.sp := rfl
@[simp] theorem State.skipIf_i (c : Bool) : (s.skipIf c).m.i = s.m.i := rfl
@[simp] theorem State.skipIf_v (c : Bool) : (s.skipIf c).m.v = s.m.v := rfl
@[simp] theorem State.skipIf_dt (c : Bool) : (s.skipIf c).m.dt = s.m.dt := rfl
@[simp] theorem State.skipIf_st (c : Bool) : (s.skipIf c).m.st = s.m.st := rfl
@[simp] theorem State.skipIf_fb (c : Bool) : (s.skipIf c).m.fb = s.m.fb := rfl
@[simp] theorem State.skipIf_dirty (c : Bool) : (s.skipIf c).m.dirty = s.m.dirty := rfl
@[simp] theorem State.skipIf_keys (c : Bool) : (s.skipIf c).m.keys = s.m.keys := rfl
@[simp] theorem State.skipIf_cfg (c : Bool) : (s.skipIf c).cfg = s.cfg := rfl
@[simp] theorem State.skipIf_fault (c : Bool) : (s.skipIf c).fault = s.fault := rfl
@[simp] theorem State.skipIf_snap (c : Bool) : (s.skipIf c).snap = s.snap := rfl
@[simp] theorem State.skipIf_status (c : Bool) : (s.skipIf c).status = s.status := rfl
@[simp] theorem State.skipIf_logWord (c : Bool) : (s.skipIf c).logWord = s.logWord := rfl
@[simp] theorem State.skipIf_logPc (c : Bool) : (s.skipIf c).logPc = s.logPc := rfl
@[simp] theorem State.skipIf_response (c : Bool) : (s.skipIf c).response = s.response := rfl
@[simp] theorem State.skipIf_draws (c : Bool) : (s.skipIf c).draws = s.draws := rfl
@[simp] theorem State.skipIf_host (c : Bool) : (s.skipIf c).host = s.host := rfl

/-! ### legacyIncrement -/

@[simp] theorem State.legacyIncrement_memory (k : Nat) : (s.legacyIncrement k).m.memory = s.m.memory := rfl
@[simp] theorem State.legacyIncrement_pc (k : Nat) : (s.legacyIncrement k).m.pc = s.m.pc := rfl
@[simp] theorem State.legacyIncrement_stack (k : Nat) : (s.legacyIncrement k).m.stack = s.m.stack := rfl
@[simp] theorem State.legacyIncrement_sp (k : Nat) : (s.legacyIncrement k).m.sp = s.m.sp := rfl
@[simp] theorem State.legacyIncrement_i (k : Nat) : (s.legacyIncrement k).m.i = if s.cfg.legacyIncrement then s.m.i + BitVec.ofNat 16 k else s.m.i := rfl
@[simp] theorem State.legacyIncrement_v (k : Nat) : (s.legacyIncrement k).m.v = s.m.v := rfl
@[simp] theorem State.legacyIncrement_dt (k : Nat) : (s.legacyIncrement k).m.dt = s.m.dt := rfl
@[simp] theorem State.legacyIncrement_st (k : Nat) : (s.legacyIncrement k).m.st = s.m.st := rfl
@[simp] theorem State.legacyIncrement_fb (k : Nat) : (s.legacyIncrement k).m.fb = s.m.fb := rfl
@[simp] theorem State.legacyIncrement_dirty (k : Nat) : (s.legacyIncrement k).m.dirty = s.m.dirty := rfl
@[simp] theorem State.legacyIncrement_keys (k : Nat) : (s.legacyIncrement k).m.keys = s.m.keys := rfl
@[simp] theorem State.legacyIncrement_cfg (k : Nat) : (s.legacyIncrement k).cfg = s.cfg := rfl
@[simp] theorem State.legacyIncrement_fault (k : Nat) : (s.legacyIncrement k).fault = s.fault := rfl
@[simp] theorem State.legacyIncrement_snap (k : Nat) : (s.legacyIncrement k).snap = s.snap := rfl
@[simp] theorem State.legacyIncrement_status (k : Nat) : (s.legacyIncrement k).status = s.status := rfl
@[simp] theorem State.legacyIncrement_logWord (k : Nat) : (s.legacyIncrement k).logWord = s.logWord := rfl
@[simp] theorem State.legacyIncrement_logPc (k : Nat) : (s.legacyIncrement k).logPc = s.logPc := rfl
@[simp] theorem State.legacyIncrement_response (k : Nat) : (s.legacyIncrement k).response = s.response := rfl
@[simp] theorem State.legacyIncrement_draws (k : Nat) : (s.legacyIncrement k).draws = s.draws := rfl
@[simp] theorem State.legacyIncrement_host (k : Nat) : (s.legacyIncrement k).host = s.host := rfl

/-! ### dirtyAfterDraw -/

@[simp] theorem State.dirtyAfterDraw_memory (b h : Nat) : (s.dirtyAfterDraw b h).m.memory = s.m.memory := rfl
@[simp] theorem State.dirtyAfterDraw_pc (b h : Nat) : (s.dirtyAfterDraw b h).m.pc = s.m.pc := rfl
@[simp] theorem State.dirtyAfterDraw_stack (b h : Nat) : (s.dirtyAfterDraw b h).m.stack = s.m.stack := rfl
@[simp] theorem State.dirtyAfterDraw_sp (b h : Nat) : (s.dirtyAfterDraw b h).m.sp = s.m.sp := rfl
@[simp] theorem State.dirtyAfterDraw_i (b h : Nat) : (s.dirtyAfterDraw b h).m.i = s.m.i := rfl
@[simp] theorem State.dirtyAfterDraw_v (b h : Nat) : (s.dirtyAfterDraw b h).m.v = s.m.v := rfl
@[simp] theorem State.dirtyAfterDraw_dt (b h : Nat) : (s.dirtyAfterDraw b h).m.dt = s.m.dt := rfl
@[simp] theorem State.dirtyAfterDraw_st (b h : Nat) : (s.dirtyAfterDraw b h).m.st = s.m.st := rfl
@[simp] theorem State.dirtyAfterDraw_fb (b h : Nat) : (s.dirtyAfterDraw b h).m.fb = s.m.fb := rfl
@[simp] theorem State.dirtyAfterDraw_dirty (b h : Nat) : (s.dirtyAfterDraw b h).m.dirty = if (decide (b > 0) && decide (h = b)) && s.cfg.antiFlicker then s.m.dirty else true := rfl
@[simp] theorem State.dirtyAfterDraw_keys (b h : Nat) : (s.dirtyAfterDraw b h).m.keys = s.m.keys := rfl
@[simp] theorem State.dirtyAfterDraw_cfg (b h : Nat) : (s.dirtyAfterDraw b h).cfg = s.cfg := rfl
@[simp] theorem State.dirtyAfterDraw_fault (b h : Nat) : (s.dirtyAfterDraw b h).fault = s.fault := rfl
@[simp] theorem State.dirtyAfterDraw_snap (b h : Nat) : (s.dirtyAfterDraw b h).snap = s.snap := rfl
@[simp] theorem State.dirtyAfterDraw_status (b h : Nat) : (s.dirtyAfterDraw b h).status = s.status := rfl
@[simp] theorem State.dirtyAfterDraw_logWord (b h : Nat) : (s.dirtyAfterDraw b h).logWord = s.logWord := rfl
@[simp] theorem State.dirtyAfterDraw_logPc (b h : Nat) : (s.dirtyAfterDraw b h).logPc = s.logPc := rfl
@[simp] theorem State.dirtyAfterDraw_response (b h : Nat) : (s.dirtyAfterDraw b h).response = s.response := rfl
@[simp] theorem State.dirtyAfterDraw_draws (b h : Nat) : (s.dirtyAfterDraw b h).draws = s.draws := rfl
@[simp] theorem State.dirtyAfterDraw_host (b h : Nat) : (s.dirtyAfterDraw b h).host = s.host := rfl

/-! ### setStatus -/

@[simp] theorem State.setStatus_m (r : Status) : (s.setStatus r).m = s.m := rfl
@[simp] theorem State.setStatus_cfg (r : Status) : (s.setStatus r).cfg = s.cfg := rfl
@[simp] theorem State.setStatus_fault (r : Status) : (s.setStatus r).fault = s.fault := rfl
@[simp] theorem State.setStatus_snap (r : Status) : (s.setStatus r).snap = s.snap := rfl
@[simp] theorem State.setStatus_status (r : Status) : (s.setStatus r).status = r := rfl
@[simp] theorem State.setStatus_logWord (r : Status) : (s.setStatus r).logWord = s.logWord := rfl
@[simp] theorem State.setStatus_logPc (r : Status) : (s.setStatus r).logPc = s.logPc := rfl
@[simp] theorem State.setStatus_response (r : Status) : (s.setStatus r).response = s.response := rfl
@[simp] theorem State.setStatus_draws (r : Status) : (s.setStatus r).draws = s.draws := rfl
@[simp] theorem State.setStatus_host (r : Status) : (s.setStatus r).host = s.host := rfl

/-! ### raise -/

@[simp] theorem State.raise_m (c : FaultCode) (w a : Word) : (s.raise c w a).m = s.m := rfl
@[simp] theorem State.raise_cfg (c : FaultCode) (w a : Word) : (s.raise c w a).cfg = s.cfg := rfl
@[simp] theorem State.raise_fault (c : FaultCode) (w a : Word) : (s.raise c w a).fault = { code := c, pc := s.m.pc, insn := if c = .fetchOob then 0 else w, addr := a } := rfl
@[simp] theorem State.raise_snap (c : FaultCode) (w a : Word) : (s.raise c w a).snap = s.snap := rfl
@[simp] theorem State.raise_status (c : FaultCode) (w a : Word) : (s.raise c w a).status = .fault := rfl
@[simp] theorem State.raise_logWord (c : FaultCode) (w a : Word) : (s.raise c w a).logWord = s.logWord := rfl
@[simp] theorem State.raise_logPc (c : FaultCode) (w a : Word) : (s.raise c w a).logPc = s.logPc := rfl
@[simp] theorem State.raise_response (c : FaultCode) (w a : Word) : (s.raise c w a).response = s.response := rfl
@[simp] theorem State.raise_draws (c : FaultCode) (w a : Word) : (s.raise c w a).draws = s.draws := rfl
@[simp] theorem State.raise_host (c : FaultCode) (w a : Word) : (s.raise c w a).host = s.host := rfl

/-! ### clearFault -/

@[simp] theorem State.clearFault_m : (s.clearFault).m = s.m := rfl
@[simp] theorem State.clearFault_cfg : (s.clearFault).cfg = s.cfg := rfl
@[simp] theorem State.clearFault_fault : (s.clearFault).fault = FaultLatch.clear := rfl
@[simp] theorem State.clearFault_snap : (s.clearFault).snap = s.snap := rfl
@[simp] theorem State.clearFault_status : (s.clearFault).status = s.status := rfl
@[simp] theorem State.clearFault_logWord : (s.clearFault).logWord = s.logWord := rfl
@[simp] theorem State.clearFault_logPc : (s.clearFault).logPc = s.logPc := rfl
@[simp] theorem State.clearFault_response : (s.clearFault).response = s.response := rfl
@[simp] theorem State.clearFault_draws : (s.clearFault).draws = s.draws := rfl
@[simp] theorem State.clearFault_host : (s.clearFault).host = s.host := rfl

/-! ### logUnknown -/

@[simp] theorem State.logUnknown_m (w : Word) : (s.logUnknown w).m = s.m := rfl
@[simp] theorem State.logUnknown_cfg (w : Word) : (s.logUnknown w).cfg = s.cfg := rfl
@[simp] theorem State.logUnknown_fault (w : Word) : (s.logUnknown w).fault = s.fault := rfl
@[simp] theorem State.logUnknown_snap (w : Word) : (s.logUnknown w).snap = s.snap := rfl
@[simp] theorem State.logUnknown_status (w : Word) : (s.logUnknown w).status = .unknown := rfl
@[simp] theorem State.logUnknown_logWord (w : Word) : (s.logUnknown w).logWord = w := rfl
@[simp] theorem State.logUnknown_logPc (w : Word) : (s.logUnknown w).logPc = s.m.pc := rfl
@[simp] theorem State.logUnknown_response (w : Word) : (s.logUnknown w).response = s.response := rfl
@[simp] theorem State.logUnknown_draws (w : Word) : (s.logUnknown w).draws = s.draws := rfl
@[simp] theorem State.logUnknown_host (w : Word) : (s.logUnknown w).host = s.host := rfl

/-! ### save -/

@[simp] theorem State.save_m : (s.save).m = s.m := rfl
@[simp] theorem State.save_cfg : (s.save).cfg = s.cfg := rfl
@[simp] theorem State.save_fault : (s.save).fault = s.fault := rfl
@[simp] theorem State.save_snap : (s.save).snap = some s.m := rfl
@[simp] theorem State.save_status : (s.save).status = s.status := rfl
@[simp] theorem State.save_logWord : (s.save).logWord = s.logWord := rfl
@[simp] theorem State.save_logPc : (s.save).logPc = s.logPc := rfl
@[simp] theorem State.save_response : (s.save).response = s.response := rfl
@[simp] theorem State.save_draws : (s.save).draws = s.draws := rfl
@[simp] theorem State.save_host : (s.save).host = s.host := rfl

end Sys2Proof.Machine
end

