-- ==== Sys2Proof/Laws/Memory.lean ====
section
/-! SUPPORT. What reading and writing memory do: the canonical form is kept, a read gives what was last written, and a
write leaves every other address alone (20_memory.md R56, R60). -/

namespace Sys2Proof.Machine

/-- An address above 0xFFF reads as 0 when it is not listed: it holds nothing. -/
theorem unlisted_of_ge (font : Font) {a : Nat} (h : 80 ≤ a) : unlisted font a = 0 := by
  rw [unlisted, dif_neg (by simp only [fontBase, fontSize]; omega)]

theorem unlisted_of_lt (font : Font) {a : Nat} (h : a < 80) : unlisted font a = font[a] := by
  rw [unlisted, dif_pos ⟨Nat.zero_le a, h⟩]; rfl

theorem Memory.wf_cons (font : Font) (k : Nat) (c : Byte) (rest : Memory) :
    Memory.wf font ((k, c) :: rest) = true ↔
      k ≤ maxAddr ∧ c ≠ unlisted font k ∧ (∀ e ∈ rest, k < e.1) ∧ Memory.wf font rest = true := by
  simp [Memory.wf, and_assoc]

/-- An address below every listed one reads as an unlisted address. -/
theorem Memory.read_of_lt_all (font : Font) (a : Nat) (m : Memory) (h : ∀ e ∈ m, a < e.1) :
    Memory.read font a m = unlisted font a := by
  induction m with
  | nil => rfl
  | cons e rest ih =>
    have hne : e.1 ≠ a := Nat.ne_of_gt (h e (by simp))
    simp [Memory.read, hne, ih (fun e' h' => h e' (by simp [h']))]

/-- A write leaves every other address as it was. -/
theorem Memory.read_write_of_ne (font : Font) {a b : Nat} (h : b ≠ a) (c : Byte) (m : Memory) :
    Memory.read font b (Memory.write font a c m) = Memory.read font b m := by
  induction m with
  | nil => by_cases hc : c = unlisted font a <;> simp [Memory.write, Memory.read, hc, h.symm]
  | cons e rest ih =>
    simp only [Memory.write]
    split_ifs with h1 h2 h3 h4
    · rfl
    · simp [Memory.read, h.symm]
    · subst h3; simp [Memory.read, h.symm]
    · subst h3; simp [Memory.read, h.symm]
    · simp [Memory.read, ih]

/-- In a canonical memory, a byte that was written reads back. -/
theorem Memory.read_write_self (font : Font) (a : Nat) (c : Byte) (m : Memory) (hm : Memory.wf font m = true) :
    Memory.read font a (Memory.write font a c m) = c := by
  induction m with
  | nil => by_cases hc : c = unlisted font a <;> simp [Memory.write, Memory.read, hc]
  | cons e rest ih =>
    obtain ⟨_, _, hlt, hrest⟩ := (Memory.wf_cons font e.1 e.2 rest).1 hm
    simp only [Memory.write]
    split_ifs with h1 h2 h3 h4
    · refine (Memory.read_of_lt_all font a _ ?_).trans h2.symm
      simpa [h1] using fun x y hx => h1.trans (hlt (x, y) hx)
    · simp [Memory.read]
    · subst h3; exact (Memory.read_of_lt_all font _ _ hlt).trans h4.symm
    · simp [Memory.read]
    · simp [Memory.read, Ne.symm h3, ih hrest]

/-- The addresses listed after a write were listed before, or are the one written. -/
theorem Memory.mem_write (font : Font) (a : Nat) (c : Byte) (m : Memory) (e : Host.Cell)
    (h : e ∈ Memory.write font a c m) : e ∈ m ∨ e = (a, c) := by
  induction m with
  | nil => by_cases hc : c = unlisted font a <;> simp_all [Memory.write]
  | cons x rest ih =>
    simp only [Memory.write] at h
    split_ifs at h with h1 h2 h3 h4 <;> simp only [List.mem_cons] at h ⊢ <;> tauto

/-- A write to an address that exists keeps the canonical form. -/
theorem Memory.wf_write (font : Font) {a : Nat} (ha : a ≤ maxAddr) (c : Byte) (m : Memory)
    (hm : Memory.wf font m = true) : Memory.wf font (Memory.write font a c m) = true := by
  induction m with
  | nil => by_cases hc : c = unlisted font a <;> simp [Memory.write, Memory.wf, hc, ha]
  | cons e rest ih =>
    obtain ⟨hk, hne, hlt, hrest⟩ := (Memory.wf_cons font e.1 e.2 rest).1 hm
    simp only [Memory.write]
    split_ifs with h1 h2 h3 h4
    · exact hm
    · refine (Memory.wf_cons ..).2 ⟨ha, h2, ?_, hm⟩
      simpa [h1] using fun x y hx => h1.trans (hlt (x, y) hx)
    · exact hrest
    · subst h3; exact (Memory.wf_cons ..).2 ⟨ha, h4, hlt, hrest⟩
    · refine (Memory.wf_cons ..).2 ⟨hk, hne, fun x hx => ?_, ih hrest⟩
      rcases Memory.mem_write font a c rest x hx with hx | rfl
      · exact hlt x hx
      · simp only; omega

/-- The memory of the reset state is in canonical form. -/
theorem reset_memory_wf (font : Font) : Memory.wf font MachineState.reset.memory = true := rfl

/-! ## Bytes through the state -/

@[simp] theorem State.readByte_writeByte_of_ne (s : State) {a b : Nat} (h : b ≠ a) (c : Byte) :
    (s.writeByte a c).readByte b = s.readByte b :=
  Memory.read_write_of_ne _ h _ _

theorem State.readByte_writeByte_self (s : State) (a : Nat) (c : Byte)
    (hm : Memory.wf s.cfg.font s.m.memory = true) : (s.writeByte a c).readByte a = c :=
  Memory.read_write_self _ _ _ _ hm

/-- A byte of memory depends on the memory and the font alone. -/
theorem State.readByte_congr {s t : State} (hm : t.m.memory = s.m.memory) (hc : t.cfg = s.cfg) (a : Nat) :
    t.readByte a = s.readByte a := by
  simp [State.readByte, hm, hc]

/-- `writeBytes` changes memory and nothing else. -/
theorem State.writeBytes_eq (s : State) (a : Nat) (bs : List Byte) :
    s.writeBytes a bs = { s with m := { s.m with memory := (s.writeBytes a bs).m.memory } } := by
  induction bs generalizing s a with
  | nil => rfl
  | cons b bs ih => rw [State.writeBytes, ih]; rfl

/-- What each address reads after bytes are stored in ascending order, in a canonical memory. -/
theorem State.readByte_writeBytes (s : State) (a : Nat) (bs : List Byte) (b : Nat)
    (hm : Memory.wf s.cfg.font s.m.memory = true) (hr : a + bs.length ≤ memSize) :
    (s.writeBytes a bs).readByte b =
      if h : a ≤ b ∧ b < a + bs.length then bs[b - a]'(by omega) else s.readByte b := by
  induction bs generalizing s a with
  | nil => simp [State.writeBytes, show ¬(a ≤ b ∧ b < a) by omega]
  | cons c bs ih =>
    simp only [List.length_cons] at hr ⊢
    have hw : Memory.wf (s.writeByte a c).cfg.font (s.writeByte a c).m.memory = true :=
      Memory.wf_write _ (by simp only [memSize, maxAddr] at *; omega) _ _ hm
    rw [State.writeBytes, ih _ _ hw (by omega)]
    rcases lt_trichotomy b a with h | rfl | h
    · rw [dif_neg (by omega), dif_neg (by omega), State.readByte_writeByte_of_ne s (Nat.ne_of_lt h)]
    · simp [State.readByte_writeByte_self s b c hm]
    · by_cases hb : b < a + (bs.length + 1)
      · rw [dif_pos ⟨h, by omega⟩, dif_pos ⟨h.le, hb⟩]
        simp [show b - a = b - (a + 1) + 1 by omega]
      · rw [dif_neg (by omega), dif_neg (by omega), State.readByte_writeByte_of_ne s (Nat.ne_of_gt h)]

/-- Bytes stored where memory exists keep the canonical form. -/
theorem State.writeBytes_wf (s : State) (a : Nat) (bs : List Byte) (hm : Memory.wf s.cfg.font s.m.memory = true)
    (hr : a + bs.length ≤ memSize) : Memory.wf s.cfg.font (s.writeBytes a bs).m.memory = true := by
  induction bs generalizing s a with
  | nil => exact hm
  | cons c bs ih =>
    simp only [List.length_cons, memSize] at hr
    exact ih (s.writeByte a c) (a + 1) (Memory.wf_write _ (by simp only [maxAddr]; omega) _ _ hm) (by simp only [memSize]; omega)

/-- Outside the stored range every byte reads as before, in any memory. -/
theorem State.readByte_writeBytes_of_outside (s : State) (a : Nat) (bs : List Byte) {b : Nat}
    (h : ¬(a ≤ b ∧ b < a + bs.length)) : (s.writeBytes a bs).readByte b = s.readByte b := by
  induction bs generalizing s a with
  | nil => rfl
  | cons c bs ih =>
    simp only [List.length_cons] at h
    rw [State.writeBytes, ih _ _ (by omega), State.readByte_writeByte_of_ne s (by omega)]

@[simp] theorem State.length_readBytes (s : State) (a n : Nat) : (s.readBytes a n).length = n := by
  induction n generalizing a with
  | zero => rfl
  | succ n ih => simp [State.readBytes, ih]

theorem State.getElem_readBytes (s : State) (a n k : Nat) (h : k < (s.readBytes a n).length) :
    (s.readBytes a n)[k] = s.readByte (a + k) := by
  induction n generalizing a k with
  | zero => simp [State.readBytes] at h
  | succ n ih =>
    cases k with
    | zero => rfl
    | succ k => simp [State.readBytes, ih, Nat.add_comm, Nat.add_left_comm]

end Sys2Proof.Machine
end

