-- ==== Sys2Proof/Laws/Ops.lean ====
section
/-! SUPPORT. What the operations over registers do, the ranges the memory port checks, and what raising and clearing a
fault leave. -/

namespace Sys2Proof.Machine

/-! ## Registers -/

/-- A register reads back what was written; every other register is as it was (10_state.md R22: none is hardwired). -/
theorem State.reg_setReg (s : State) (x y : RegIdx) (b : Byte) :
    (s.setReg x b).reg y = if x = y then b else s.reg y := by
  simp [State.reg, Vector.getElem_set, Fin.ext_iff]

@[simp] theorem State.reg_setReg_self (s : State) (x : RegIdx) (b : Byte) : (s.setReg x b).reg x = b := by
  simp [State.reg_setReg]

theorem State.reg_setReg_of_ne (s : State) {x y : RegIdx} (h : x ≠ y) (b : Byte) :
    (s.setReg x b).reg y = s.reg y := by
  simp [State.reg_setReg, h]

theorem regAt_val {k : Nat} (h : k < 16) : (regAt k).val = k := Nat.mod_eq_of_lt h

/-- `loadRegs` changes the registers and nothing else. -/
theorem State.loadRegs_eq (s : State) (a k : Nat) :
    s.loadRegs a k = { s with m := { s.m with v := (s.loadRegs a k).m.v } } := by
  induction k with
  | zero => rfl
  | succ k ih => rw [State.loadRegs, ih]; rfl

/-- `loadRegs a k` loads exactly `v[0..k-1]`, each from its own address. -/
theorem State.reg_loadRegs (s : State) (a : Nat) {k : Nat} (hk : k ≤ 16) (y : RegIdx) :
    (s.loadRegs a k).reg y = if y.val < k then s.readByte (a + y.val) else s.reg y := by
  induction k with
  | zero => rfl
  | succ k ih =>
    rw [State.loadRegs, State.reg_setReg, ih (by omega)]
    by_cases h : regAt k = y
    · rw [← h]; simp [regAt_val (show k < 16 by omega)]
    · have hne : y.val ≠ k := fun e => h (Fin.ext (by rw [regAt_val (by omega), e]))
      simp only [if_neg h, show y.val < k + 1 ↔ y.val < k by omega]

/-- `storeRegs a k` stores the bytes `v[0], …, v[k-1]` at ascending addresses. -/
theorem State.storeRegs_eq_writeBytes (s : State) (a : Nat) {k : Nat} (hk : k ≤ 16) :
    s.storeRegs a k = s.writeBytes a (s.m.v.toList.take k) := by
  have append (t : State) (c : Nat) (bs : List Byte) (b : Byte) :
      t.writeBytes c (bs ++ [b]) = (t.writeBytes c bs).writeByte (c + bs.length) b := by
    induction bs generalizing t c with
    | nil => rfl
    | cons d ds ih => simp [State.writeBytes, ih, Nat.add_assoc, Nat.add_comm 1]
  induction k with
  | zero => rfl
  | succ k ih =>
    have hlen : k < s.m.v.toList.length := by simp; omega
    have hreg : s.reg (regAt k) = s.m.v.toList[k] := by
      simp only [State.reg, Fin.getElem_fin, Vector.getElem_toList, regAt_val (show k < 16 by omega)]
    rw [State.storeRegs, ih (by omega), List.take_succ_eq_append_getElem hlen, append, hreg]
    congr 1
    simp only [List.length_take, Vector.length_toList]
    omega

/-! ## Ranges -/

/-- `InRange(a, n)`: true iff `n = 0` or `a + n - 1 ≤ 0xFFF` (00_scope.md R10). -/
theorem inRange_iff (a n : Nat) : inRange a n = true ↔ n = 0 ∨ a + n ≤ memSize := by
  simp only [inRange, Bool.or_eq_true, beq_iff_eq, decide_eq_true_eq, memSize, maxAddr]; omega

theorem State.dataInRange_iff (s : State) (n : Nat) :
    s.dataInRange n = true ↔ n = 0 ∨ s.m.i.toNat + n ≤ memSize := by
  simp [State.dataInRange, State.dataAddr, inRange_iff]

/-- The reported address of an out-of-range access is `max(I, 0x1000)`, with nothing lost in 16 bits. -/
theorem State.dataOobAddr_toNat (s : State) : s.dataOobAddr.toNat = max s.m.i.toNat 0x1000 := by
  have := s.m.i.isLt
  simp only [State.dataOobAddr, memSize, BitVec.toNat_ofNat]
  exact Nat.mod_eq_of_lt (by omega)

/-- The reported address of an out-of-range fetch is the first byte above 0xFFF. -/
theorem State.fetchOobAddr_toNat (s : State) (h : inRange s.m.pc.toNat 2 = false) :
    s.fetchOobAddr.toNat = max s.m.pc.toNat 0x1000 := by
  have hlt := s.m.pc.isLt
  have hpc : ¬(2 = 0 ∨ s.m.pc.toNat + 2 ≤ memSize) := by rw [← inRange_iff]; simp [h]
  simp only [memSize] at hpc
  have h1 : (1 : Word).toNat = 1 := rfl
  unfold State.fetchOobAddr
  split <;> simp only [maxAddr, BitVec.toNat_add, h1] at * <;> omega

/-! ## Faults -/

/-- Raising a fault latches the code, the pc, the word (0 for FETCH_OOB) and the address, sets status FAULT, and
changes nothing of Machine State (60_exceptions.md R242). -/
theorem State.raise_eq (s : State) (c : FaultCode) (w a : Word) :
    s.raise c w a =
      { s with fault := ⟨c, s.m.pc, if c = .fetchOob then 0 else w, a⟩, status := .fault } := rfl

/-- Clearing the latch leaves Machine State and everything else (60_exceptions.md R244). -/
theorem State.clearFault_eq (s : State) : s.clearFault = { s with fault := ⟨.none, 0, 0, 0⟩ } := rfl

/-! ## Keys -/

/-- With a key down, Fx0A reports a down key: the smallest such index with LOWEST, the largest with HIGHEST
(44_timers_keys.md R203). -/
theorem pickKey_spec (pick : KeyPick) {keys : Word} (h : keys ≠ 0) :
    pickKey pick keys < 16 ∧ keys.getLsbD (pickKey pick keys) = true ∧
      ∀ j < 16, keys.getLsbD j = true →
        match pick with
        | .lowest => pickKey pick keys ≤ j
        | .highest => j ≤ pickKey pick keys := by
  obtain ⟨k, hk, hd⟩ : ∃ k < 16, keys.getLsbD k = true := by
    by_contra hn
    push Not at hn
    exact h (BitVec.eq_of_getLsbD_eq fun i hi => by simpa using hn i hi)
  cases pick with
  | lowest =>
    have hs : ((List.range 16).find? fun k => keys.getLsbD k).isSome := by
      simpa using ⟨k, hk, hd⟩
    obtain ⟨r, hr⟩ := Option.isSome_iff_exists.1 hs
    rw [List.find?_range_eq_some] at hr
    have hp : pickKey .lowest keys = r := by
      simp only [pickKey, nkeys]; rw [List.find?_range_eq_some.2 hr]; rfl
    simp only [List.mem_range] at hr
    rw [hp]
    refine ⟨hr.2.1, hr.1, fun j _ hj => ?_⟩
    by_contra hlt
    have := hr.2.2 j (by omega)
    simp [hj] at this
  | highest =>
    have hs : ((List.range 16).reverse.find? fun k => keys.getLsbD k).isSome := by
      simpa using ⟨k, hk, hd⟩
    obtain ⟨r, hr⟩ := Option.isSome_iff_exists.1 hs
    have hp : pickKey .highest keys = r := by simp only [pickKey, nkeys]; rw [hr]; rfl
    rw [hp]
    have hmem := List.mem_of_find?_eq_some hr
    refine ⟨by simpa using hmem, List.find?_some hr, fun j hj hd => ?_⟩
    obtain ⟨_, as, bs, hab, has⟩ := List.find?_eq_some_iff_append.1 hr
    by_contra hlt
    have hj' : j ∈ (List.range 16).reverse := by simpa using hj
    have hsorted : ((List.range 16).reverse).Pairwise (· > ·) := by decide
    rw [hab] at hj' hsorted
    rcases List.mem_append.1 hj' with h1 | h1
    · have := has j h1; simp [hd] at this
    · rcases List.mem_cons.1 h1 with rfl | h1
      · omega
      · have := (List.pairwise_append.1 hsorted).2.1
        have := (List.pairwise_cons.1 this).1 j h1
        omega

end Sys2Proof.Machine
end

