-- ==== Sys2Proof/Laws/Draw.lean ====
section
/-! SUPPORT. What drawing does: one pixel, one sprite byte, a whole sprite (40_display.md R121). -/

namespace Sys2Proof.Machine

/-- Flipping a pixel inverts it and leaves every other pixel. -/
theorem pixelAt_flipPixel (fb : Framebuffer) (p q : Pixel) :
    pixelAt (flipPixel fb p) q = (pixelAt fb q ^^ decide (p = q)) := by
  obtain ⟨py, px⟩ := p
  obtain ⟨qy, qx⟩ := q
  have hx := qx.isLt
  have hb : (1#64 <<< px.val).getLsbD qx.val = decide (px = qx) := by
    simp only [BitVec.getLsbD_shiftLeft, BitVec.getLsbD_one, Fin.ext_iff]
    by_cases h : px.val = qx.val
    · simp [h]
    · simp only [h, decide_false, Bool.and_eq_false_imp]
      intro h1
      simp only [decide_eq_true_eq, Bool.and_eq_true, Bool.not_eq_true', decide_eq_false_iff_not] at h1 ⊢
      omega
  by_cases h : py = qy
  · subst h
    simp only [pixelAt, flipPixel, Fin.getElem_fin, Vector.getElem_set_self, BitVec.getLsbD_xor, hb, Prod.mk.injEq,
      true_and]
  · have hv : py.val ≠ qy.val := fun e => h (Fin.ext e)
    simp [pixelAt, flipPixel, Vector.getElem_set_ne _ _ hv, h]

/-- Two grids with the same pixels are the same grid. -/
theorem framebuffer_ext {f g : Framebuffer} (h : ∀ p, pixelAt f p = pixelAt g p) : f = g := by
  apply Vector.ext
  intro y hy
  apply BitVec.eq_of_getLsbD_eq
  intro x hx
  exact h (⟨y, hy⟩, ⟨x, hx⟩)

theorem pixelAt_blank (p : Pixel) : pixelAt (Vector.replicate 32 0) p = false := by
  simp [pixelAt]

/-- The pixels a sprite byte addresses: one for each set bit 7 - c, at column `(x0 + c) mod 64`. -/
theorem mem_spriteRow (x0 y : Nat) (b : Byte) (q : Pixel) :
    q ∈ spriteRow x0 y b ↔ ∃ c < 8, b.getLsbD (7 - c) = true ∧ q = wrapPixel (x0 + c) y := by
  simp only [spriteRow, List.mem_filterMap, List.mem_range]
  constructor
  · rintro ⟨c, hc, h⟩
    split at h
    · exact ⟨c, hc, ‹_›, by simpa using h.symm⟩
    · cases h
  · rintro ⟨c, hc, hb, rfl⟩
    exact ⟨c, hc, by simp [hb]⟩

/-- The pixels a sprite addresses: one for each set bit of each row r, at row `(y0 + r) mod 32`. -/
theorem mem_spritePixels (x0 y0 : Nat) (rows : List Byte) (q : Pixel) :
    q ∈ spritePixels x0 y0 rows ↔
      ∃ (r : Nat) (h : r < rows.length), ∃ c < 8,
        rows[r].getLsbD (7 - c) = true ∧ q = wrapPixel (x0 + c) (y0 + r) := by
  induction rows generalizing y0 with
  | nil => simp [spritePixels]
  | cons b rows ih =>
    rw [spritePixels, List.mem_append, mem_spriteRow, ih]
    constructor
    · rintro (⟨c, hc, hb, rfl⟩ | ⟨r, hr, c, hc, hb, rfl⟩)
      · exact ⟨0, by simp, c, hc, by simpa using hb, by simp⟩
      · exact ⟨r + 1, by simpa using hr, c, hc, by simpa using hb, by simp [Nat.add_assoc, Nat.add_comm 1]⟩
    · rintro ⟨r, hr, c, hc, hb, rfl⟩
      cases r with
      | zero => exact .inl ⟨c, hc, by simpa using hb, by simp⟩
      | succ r =>
        exact .inr ⟨r, by simpa using hr, c, hc, by simpa using hb, by simp [Nat.add_assoc, Nat.add_comm 1]⟩

theorem foldl_plotPixel_setBits (d : Drawing) (ps : List Pixel) :
    (ps.foldl plotPixel d).setBits = d.setBits + ps.length := by
  induction ps generalizing d with
  | nil => rfl
  | cons p ps ih => simp [ih, plotPixel, Nat.add_assoc, Nat.add_comm 1]

/-- `set_bits` counts the set source bits. -/
theorem drawPixels_setBits (fb : Framebuffer) (ps : List Pixel) : (drawPixels fb ps).setBits = ps.length := by
  simp [drawPixels, foldl_plotPixel_setBits]

/-- Drawing pixels that are all different flips each of them once, and counts as hits those that were set before the
draw; there is a collision iff there is a hit. -/
theorem foldl_plotPixel_spec (d : Drawing) (ps : List Pixel) (hn : ps.Nodup) :
    (∀ q, pixelAt (ps.foldl plotPixel d).fb q = (pixelAt d.fb q ^^ decide (q ∈ ps))) ∧
      (ps.foldl plotPixel d).hits = d.hits + ps.countP (pixelAt d.fb) ∧
      (ps.foldl plotPixel d).coll = (d.coll || ps.any (pixelAt d.fb)) := by
  induction ps generalizing d with
  | nil => simp
  | cons p ps ih =>
    obtain ⟨hp, hn⟩ := List.nodup_cons.1 hn
    obtain ⟨hfb, hhits, hcoll⟩ := ih (plotPixel d p) hn
    have same : ∀ q ∈ ps, pixelAt (plotPixel d p).fb q = pixelAt d.fb q := by
      intro q hq
      have : p ≠ q := fun e => hp (e ▸ hq)
      simp [plotPixel, pixelAt_flipPixel, this]
    refine ⟨fun q => ?_, ?_, ?_⟩
    · rw [List.foldl_cons, hfb q]
      simp only [plotPixel, pixelAt_flipPixel, List.mem_cons]
      by_cases h : p = q
      · subst h; simp [hp]
      · simp [h, Ne.symm h]
    · rw [List.foldl_cons, hhits, List.countP_congr (q := pixelAt d.fb) (by simpa using same), List.countP_cons]
      simp only [plotPixel]
      split <;> omega
    · have hany : ps.any (pixelAt (plotPixel d p).fb) = ps.any (pixelAt d.fb) := by
        rw [Bool.eq_iff_iff]
        simp only [List.any_eq_true]
        exact ⟨fun ⟨q, hq, h⟩ => ⟨q, hq, (same q hq) ▸ h⟩, fun ⟨q, hq, h⟩ => ⟨q, hq, (same q hq).symm ▸ h⟩⟩
      rw [List.foldl_cons, hcoll, hany, List.any_cons, ← Bool.or_assoc]
      rfl

end Sys2Proof.Machine
end

