-- ==== Sys2Proof/Laws/Step.lean ====
section
/-! SUPPORT. What one cycle can do, said once: the host's part, the part before Execute, and the whole. -/

namespace Sys2Proof.Machine

/-! ## The part of a step before Execute -/

/-- Every way the part before Execute can end: HALTED, a fetch fault, an unknown word, or an instruction to execute
with status OK (30_encoding.md R83). -/
theorem issue_cases (s : State) :
    (s.fault.code ≠ .none ∧ s.issue = .done (s.setStatus .halted)) ∨
    (s.fault.code = .none ∧ inRange s.m.pc.toNat 2 = false ∧ s.issue = .done (s.raise .fetchOob 0 s.fetchOobAddr)) ∨
    (s.fault.code = .none ∧ inRange s.m.pc.toNat 2 = true ∧
      ∃ e, decodeWord s.fetchedWord = .error e ∧ s.issue = .done (s.logUnknown s.fetchedWord)) ∨
    (s.fault.code = .none ∧ inRange s.m.pc.toNat 2 = true ∧
      ∃ i, decodeWord s.fetchedWord = .ok i ∧ s.issue = .execute i (s.setStatus .ok)) := by
  unfold State.issue
  by_cases hf : s.fault.code = .none
  · cases hr : inRange s.m.pc.toNat 2
    · simp [hf]
    · cases hd : decodeWord s.fetchedWord <;> simp [hf]
  · simp [hf]

/-! ## One cycle -/

/-- A cycle without a step is the host's part alone. -/
theorem step_of_not_given {s : State} (h : s.stepGiven = false) : step s = .next s.afterHost := by
  simp [step, h]

/-- A cycle with a step whose part before Execute ends the step. -/
theorem step_of_done {s t : State} (h : s.stepGiven = true) (hi : s.afterHost.issue = .done t) : step s = .next t := by
  simp [step, h, hi]

/-- A cycle with a step that executes an instruction. -/
theorem step_of_execute {s t : State} {i : Instr} (h : s.stepGiven = true) (hi : s.afterHost.issue = .execute i t) :
    step s = exec i t := by
  simp [step, h, hi]

/-- With nothing scheduled by the host, the host's part of a cycle changes nothing but the response. -/
theorem afterHost_of_nil {s : State} (h : s.host = []) : s.afterHost = { s with response := .none } := by
  cases s
  simp only at h
  subst h
  rfl

theorem stepGiven_of_nil {s : State} (h : s.host = []) : s.stepGiven = true := by
  simp [State.stepGiven, State.cycle, h, Cycle.stepOnly]

/-! ## The host's part (60_exceptions.md R266) -/

/-- RESTORE without a snapshot changes only the response. -/
theorem restore_of_none {s : State} (h : s.snap = none) : s.restore = { s with response := .noSnapshot } := by
  simp [State.restore, h]

/-- RESTORE with a snapshot copies it back and clears the fault latch. -/
theorem restore_of_some {s : State} {saved : MachineState} (h : s.snap = some saved) :
    s.restore = { s with m := saved, fault := FaultLatch.clear } := by
  simp [State.restore, h, State.clearFault]

/-- A host command keeps the configuration, the status, the log, the draws and the host's schedule; only SAVE changes
the snapshot. -/
theorem command_frame (s : State) (c : HostCommand) :
    (s.command c).cfg = s.cfg ∧ (s.command c).status = s.status ∧ (s.command c).logWord = s.logWord ∧
      (s.command c).logPc = s.logPc ∧ (s.command c).draws = s.draws ∧ (s.command c).host = s.host ∧
      ((s.command c).snap = s.snap ∨ c = .save) := by
  cases c with
  | loadWrite a b => by_cases h : a ≤ maxAddr <;> simp [State.command, State.loadWrite, h]
  | restore => cases h : s.snap <;> simp [State.command, State.restore, h]
  | _ => simp [State.command]

/-- A tick changes DT and ST and nothing else. -/
theorem onTick_eq (s : State) :
    s.onTick = { s with m := { s.m with dt := tickDown s.m.dt, st := tickDown s.m.st } } := rfl

/-- A timer counts down to 0 and stays there (60_exceptions.md R260). -/
theorem tickDown_toNat (b : Byte) : (tickDown b).toNat = b.toNat - 1 := by
  unfold tickDown
  split
  · rename_i h
    have : b.toNat ≠ 0 := fun e => h (BitVec.eq_of_toNat_eq (by simpa using e))
    have := b.isLt
    have h1 : (1 : Byte).toNat = 1 := rfl
    rw [BitVec.toNat_sub, h1]
    omega
  · rename_i h
    have hb : b = 0 := by simpa using h
    subst hb; rfl

end Sys2Proof.Machine
end

