-- ==== Sys2Proof/Laws/Exec.lean ====
section
/-! SUPPORT. What an instruction can do outside its own operands, said once: complete without touching the latch, or
raise the one fault of its row (60_exceptions.md R241), and what a cycle keeps. -/

namespace Sys2Proof.Machine

/-- The fault an instruction raises in a state, with its address, if it raises one (60_exceptions.md R241). -/
def faultOf (i : Instr) (s : State) : Option (FaultCode × Word) :=
  match i with
  | .drw _ _ n => if s.dataInRange n then none else some (.dataOob, s.dataOobAddr)
  | .ldB _ => if s.dataInRange 3 then none else some (.dataOob, s.dataOobAddr)
  | .ldMemV x => if s.dataInRange (x.val + 1) then none else some (.dataOob, s.dataOobAddr)
  | .ldVMem x => if s.dataInRange (x.val + 1) then none else some (.dataOob, s.dataOobAddr)
  | .call _ => if s.m.sp.val < stackDepth then none else some (.stackOverflow, s.spWord)
  | .ret _ => if 0 < s.m.sp.val then none else some (.stackUnderflow, s.spWord)
  | .skp x => if (s.reg x).toNat < nkeys then none else some (.keyIndex, zextByte (s.reg x))
  | .sknp x => if (s.reg x).toNat < nkeys then none else some (.keyIndex, zextByte (s.reg x))
  | .cls _ | .jp _ | .seImm _ _ | .sneImm _ _ | .ldImm _ _ | .addImm _ _ | .ldReg _ _ | .andReg _ _ | .xorReg _ _
  | .addReg _ _ | .subReg _ _ | .shr _ _ | .sneReg _ _ _ | .ldI _ | .rnd _ _ | .ldVDt _ | .ldVK _ | .ldDtV _
  | .ldStV _ | .addI _ | .ldF _ => none

/-- What every instruction keeps when it raises no fault. -/
structure Completes (s t : State) : Prop where
  /-- the latch -/
  fault : t.fault = s.fault
  /-- the status, but for a key wait -/
  status : t.status = s.status ∨ t.status = .wait
  /-- the snapshot -/
  snap : t.snap = s.snap
  /-- the sampled configuration -/
  cfg : t.cfg = s.cfg
  /-- the word of the last UNKNOWN step -/
  logWord : t.logWord = s.logWord
  /-- its `pc` -/
  logPc : t.logPc = s.logPc
  /-- the response -/
  response : t.response = s.response
  /-- the schedule -/
  host : t.host = s.host
  /-- the keys -/
  keys : t.m.keys = s.m.keys

/-- Every instruction either completes or raises the fault `faultOf` names, with its own word. -/
theorem exec_outcome (i : Instr) (s : State) :
    (faultOf i s = none ∧ ∃ t, exec i s = .next t ∧ Completes s t) ∨
      ∃ c a, faultOf i s = some (c, a) ∧ exec i s = .next (s.raise c (encode i) a) := by
  have same {t : State} (h : t = { s with m := t.m, draws := t.draws }) (hk : t.m.keys = s.m.keys) : Completes s t := by
    rw [h]; exact ⟨rfl, .inl rfl, rfl, rfl, rfl, rfl, rfl, rfl, hk⟩
  cases i with
  | ret ign =>
    simp only [exec, execRet, faultOf]
    split
    · exact .inl ⟨rfl, _, rfl, same rfl rfl⟩
    · exact .inr ⟨_, _, rfl, rfl⟩
  | call nnn =>
    simp only [exec, execCall, faultOf]
    split
    · exact .inl ⟨rfl, _, rfl, same rfl rfl⟩
    · exact .inr ⟨_, _, rfl, rfl⟩
  | drw x y n =>
    simp only [exec, execDrw, faultOf]
    split
    · exact .inl ⟨rfl, _, rfl, same rfl rfl⟩
    · exact .inr ⟨_, _, rfl, rfl⟩
  | skp x =>
    simp only [exec, execSkp, faultOf]
    split
    · exact .inl ⟨rfl, _, rfl, same rfl rfl⟩
    · exact .inr ⟨_, _, rfl, rfl⟩
  | sknp x =>
    simp only [exec, execSknp, faultOf]
    split
    · exact .inl ⟨rfl, _, rfl, same rfl rfl⟩
    · exact .inr ⟨_, _, rfl, rfl⟩
  | ldVK x =>
    simp only [exec, execLdVK, faultOf]
    split
    · exact .inl ⟨trivial, _, rfl, rfl, .inr rfl, rfl, rfl, rfl, rfl, rfl, rfl, rfl⟩
    · exact .inl ⟨trivial, _, rfl, same rfl rfl⟩
  | ldB x =>
    simp only [exec, execLdB, faultOf]
    split
    · rw [State.writeBytes_eq]; exact .inl ⟨rfl, _, rfl, same rfl rfl⟩
    · exact .inr ⟨_, _, rfl, rfl⟩
  | ldMemV x =>
    simp only [exec, execLdMemV, faultOf]
    split
    · rw [State.storeRegs_eq_writeBytes _ _ (by omega), State.writeBytes_eq]; exact .inl ⟨rfl, _, rfl, same rfl rfl⟩
    · exact .inr ⟨_, _, rfl, rfl⟩
  | ldVMem x =>
    simp only [exec, execLdVMem, faultOf]
    split
    · rw [State.loadRegs_eq]; exact .inl ⟨rfl, _, rfl, same rfl rfl⟩
    · exact .inr ⟨_, _, rfl, rfl⟩
  | _ => exact .inl ⟨rfl, _, rfl, same rfl rfl⟩

/-- No instruction answers anything but a next state. -/
theorem exec_next (i : Instr) (s : State) : ∃ t, exec i s = .next t := by
  rcases exec_outcome i s with ⟨_, t, h, _⟩ | ⟨_, _, _, h⟩ <;> exact ⟨_, h⟩

/-- One step of a run. -/
theorem run_succ_of_step (M : Host.Core) (n : Nat) (s t : M.State) (h : M.step s = .next t) :
    M.run (n + 1) s = M.run n t := by
  simp only [Host.Core.run, h]

/-- A cycle uses up its own signals and no others. -/
theorem afterHost_host (s : State) : s.afterHost.host = s.host.tail := by
  unfold State.afterHost
  split
  · rfl
  · dsimp only
    split <;> split <;> first | rfl | exact (command_frame _ _).2.2.2.2.2.1

end Sys2Proof.Machine
end

