-- ==== Sys2Proof/Laws/PerInstr.lean ====
section
/-! SUPPORT. The family RowMatch: the word of every instruction is selected by its own row of the opcode map, and that
row is one of the 29 (30_encoding.md R87). -/

namespace Sys2Proof.Laws.RowMatch

/-- The encoded word has the row's pattern under the row's mask, and the row is in the table. -/
def Statement (i : Instr) : Prop := encode i &&& i.row.mask = i.row.pattern ∧ i.row ∈ opcodeRows

theorem formatNNN {f : Nat} (h : f < 16) (nnn : Addr12) : (encodeNNN f nnn &&& (0xF000 : Word)).toNat = f * 0x1000 := by
  have := nnn.isLt; rw [and_F000_toNat, encodeNNN_toNat h]; omega

theorem formatXNN {f : Nat} (h : f < 16) (x : RegIdx) (nn : Byte) :
    (encodeXNN f x nn &&& (0xF000 : Word)).toNat = f * 0x1000 := by
  have := x.isLt; have := nn.isLt; rw [and_F000_toNat, encodeXNN_toNat h]; omega

theorem formatXSS {f : Nat} (h : f < 16) (x : RegIdx) (nn : Byte) :
    (encodeXNN f x nn &&& (0xF0FF : Word)).toNat = f * 0x1000 + nn.toNat := by
  have := x.isLt; have := nn.isLt; rw [and_F0FF_toNat, encodeXNN_toNat h]; omega

theorem formatXYS {f n : Nat} (h : f < 16) (hn : n < 16) (x y : RegIdx) :
    (encodeXYN f x y n &&& (0xF00F : Word)).toNat = f * 0x1000 + n := by
  have := x.isLt; have := y.isLt; rw [and_F00F_toNat, encodeXYN_toNat h hn]; omega

theorem formatXYN {f n : Nat} (h : f < 16) (hn : n < 16) (x y : RegIdx) :
    (encodeXYN f x y n &&& (0xF000 : Word)).toNat = f * 0x1000 := by
  have := x.isLt; have := y.isLt; rw [and_F000_toNat, encodeXYN_toNat h hn]; omega

theorem formatZ {n : Nat} (hn : n < 16) (ign : BitVec 8) : (encodeZ ign n &&& (0xF00F : Word)).toNat = n := by
  have := ign.isLt; rw [and_F00F_toNat, encodeZ_toNat hn]; omega

theorem cls (ign : BitVec 8) : Statement (.cls ign) :=
  ⟨BitVec.eq_of_toNat_eq (formatZ (by decide) ign), by simp [Instr.row, opcodeRows]⟩

theorem ret (ign : BitVec 8) : Statement (.ret ign) :=
  ⟨BitVec.eq_of_toNat_eq (formatZ (by decide) ign), by simp [Instr.row, opcodeRows]⟩

theorem jp (nnn : Addr12) : Statement (.jp nnn) :=
  ⟨BitVec.eq_of_toNat_eq (formatNNN (by decide) nnn), by simp [Instr.row, opcodeRows]⟩

theorem call (nnn : Addr12) : Statement (.call nnn) :=
  ⟨BitVec.eq_of_toNat_eq (formatNNN (by decide) nnn), by simp [Instr.row, opcodeRows]⟩

theorem seImm (x : RegIdx) (nn : Byte) : Statement (.seImm x nn) :=
  ⟨BitVec.eq_of_toNat_eq (formatXNN (by decide) x nn), by simp [Instr.row, opcodeRows]⟩

theorem sneImm (x : RegIdx) (nn : Byte) : Statement (.sneImm x nn) :=
  ⟨BitVec.eq_of_toNat_eq (formatXNN (by decide) x nn), by simp [Instr.row, opcodeRows]⟩

theorem ldImm (x : RegIdx) (nn : Byte) : Statement (.ldImm x nn) :=
  ⟨BitVec.eq_of_toNat_eq (formatXNN (by decide) x nn), by simp [Instr.row, opcodeRows]⟩

theorem addImm (x : RegIdx) (nn : Byte) : Statement (.addImm x nn) :=
  ⟨BitVec.eq_of_toNat_eq (formatXNN (by decide) x nn), by simp [Instr.row, opcodeRows]⟩

theorem ldReg (x y : RegIdx) : Statement (.ldReg x y) :=
  ⟨BitVec.eq_of_toNat_eq (formatXYS (by decide) (by decide) x y), by simp [Instr.row, opcodeRows]⟩

theorem andReg (x y : RegIdx) : Statement (.andReg x y) :=
  ⟨BitVec.eq_of_toNat_eq (formatXYS (by decide) (by decide) x y), by simp [Instr.row, opcodeRows]⟩

theorem xorReg (x y : RegIdx) : Statement (.xorReg x y) :=
  ⟨BitVec.eq_of_toNat_eq (formatXYS (by decide) (by decide) x y), by simp [Instr.row, opcodeRows]⟩

theorem addReg (x y : RegIdx) : Statement (.addReg x y) :=
  ⟨BitVec.eq_of_toNat_eq (formatXYS (by decide) (by decide) x y), by simp [Instr.row, opcodeRows]⟩

theorem subReg (x y : RegIdx) : Statement (.subReg x y) :=
  ⟨BitVec.eq_of_toNat_eq (formatXYS (by decide) (by decide) x y), by simp [Instr.row, opcodeRows]⟩

theorem shr (x y : RegIdx) : Statement (.shr x y) :=
  ⟨BitVec.eq_of_toNat_eq (formatXYS (by decide) (by decide) x y), by simp [Instr.row, opcodeRows]⟩

theorem sneReg (x y : RegIdx) (ign : BitVec 4) : Statement (.sneReg x y ign) :=
  ⟨BitVec.eq_of_toNat_eq (formatXYN (by decide) ign.isLt x y), by simp [Instr.row, opcodeRows]⟩

theorem ldI (nnn : Addr12) : Statement (.ldI nnn) :=
  ⟨BitVec.eq_of_toNat_eq (formatNNN (by decide) nnn), by simp [Instr.row, opcodeRows]⟩

theorem rnd (x : RegIdx) (nn : Byte) : Statement (.rnd x nn) :=
  ⟨BitVec.eq_of_toNat_eq (formatXNN (by decide) x nn), by simp [Instr.row, opcodeRows]⟩

theorem drw (x y : RegIdx) (n : Nat) : Statement (.drw x y n) :=
  ⟨BitVec.eq_of_toNat_eq (formatXYN (by decide) (Nat.mod_lt n (by decide)) x y), by simp [Instr.row, opcodeRows]⟩

theorem skp (x : RegIdx) : Statement (.skp x) :=
  ⟨BitVec.eq_of_toNat_eq (formatXSS (by decide) x _), by simp [Instr.row, opcodeRows]⟩

theorem sknp (x : RegIdx) : Statement (.sknp x) :=
  ⟨BitVec.eq_of_toNat_eq (formatXSS (by decide) x _), by simp [Instr.row, opcodeRows]⟩

theorem ldVDt (x : RegIdx) : Statement (.ldVDt x) :=
  ⟨BitVec.eq_of_toNat_eq (formatXSS (by decide) x _), by simp [Instr.row, opcodeRows]⟩

theorem ldVK (x : RegIdx) : Statement (.ldVK x) :=
  ⟨BitVec.eq_of_toNat_eq (formatXSS (by decide) x _), by simp [Instr.row, opcodeRows]⟩

theorem ldDtV (x : RegIdx) : Statement (.ldDtV x) :=
  ⟨BitVec.eq_of_toNat_eq (formatXSS (by decide) x _), by simp [Instr.row, opcodeRows]⟩

theorem ldStV (x : RegIdx) : Statement (.ldStV x) :=
  ⟨BitVec.eq_of_toNat_eq (formatXSS (by decide) x _), by simp [Instr.row, opcodeRows]⟩

theorem addI (x : RegIdx) : Statement (.addI x) :=
  ⟨BitVec.eq_of_toNat_eq (formatXSS (by decide) x _), by simp [Instr.row, opcodeRows]⟩

theorem ldF (x : RegIdx) : Statement (.ldF x) :=
  ⟨BitVec.eq_of_toNat_eq (formatXSS (by decide) x _), by simp [Instr.row, opcodeRows]⟩

theorem ldB (x : RegIdx) : Statement (.ldB x) :=
  ⟨BitVec.eq_of_toNat_eq (formatXSS (by decide) x _), by simp [Instr.row, opcodeRows]⟩

theorem ldMemV (x : RegIdx) : Statement (.ldMemV x) :=
  ⟨BitVec.eq_of_toNat_eq (formatXSS (by decide) x _), by simp [Instr.row, opcodeRows]⟩

theorem ldVMem (x : RegIdx) : Statement (.ldVMem x) :=
  ⟨BitVec.eq_of_toNat_eq (formatXSS (by decide) x _), by simp [Instr.row, opcodeRows]⟩

end Sys2Proof.Laws.RowMatch
end

