-- ==== Sys2Proof/Tests/Slice0.lean ====
section
/-! SUPPORT. Tests with expected results written out from the spec (mostly the vectors of 95_test_vectors.md, named in
each comment), and for every statement with hypotheses a witness that meets them. -/

namespace Sys2Proof.Tests

open Sys2Proof.Machine Sys2Proof.Stmt

/-! ## Small states and single steps -/

/-- The state after a reset with LEGACY_INCREMENT = 0, ANTI_FLICKER = 0, KEYWAIT_PICK = LOWEST and the default FONT. -/
def start : State :=
  { State.reset with
    cfg := { legacyIncrement := false, antiFlicker := false, keywaitPick := .lowest, font := defaultFont } }

/-- The same with LEGACY_INCREMENT = 1, ANTI_FLICKER = 1 and KEYWAIT_PICK = HIGHEST. -/
def start' : State :=
  { State.reset with
    cfg := { legacyIncrement := true, antiFlicker := true, keywaitPick := .highest, font := defaultFont } }

/-- A state with three registers set: V0, V1 and VF. -/
def with3 (s : State) (v0 v1 v15 : Byte) : State := ((s.setReg 0 v0).setReg 1 v1).setReg 15 v15

/-- What a view shows after the step that runs a word. -/
def after {α : Type} (s : State) (w : Nat) (view : State → α) : Option α :=
  match step (s.withFetchWord 16 w) with
  | .next t => some (view t)
  | _ => none

/-- What a view shows after one cycle with these signals. -/
def afterCycle {α : Type} (s : State) (command : Option HostCommand) (tick give : Bool) (view : State → α) : Option α :=
  match step { s with host := [{ reset := none, command := command, tick := tick, step := give }] } with
  | .next t => some (view t)
  | _ => none

/-- The state with a word stored where the next step fetches. -/
def holding (s : State) (w : Nat) : State := s.withFetchWord 16 w

/-- The state with this cycle scheduled, and nothing after it. -/
def facing (s : State) (command : Option HostCommand) (tick give : Bool) : State :=
  { s with host := [{ reset := none, command := command, tick := tick, step := give }] }

/-- A latched stack underflow at 0x200. -/
def halted (s : State) : State :=
  { s with fault := { code := .stackUnderflow, pc := 0x200, insn := 0x00EE, addr := 0 } }

/-- A pixel by column and row. -/
def px (s : State) (x : Fin 64) (y : Fin 32) : Bool := pixelAt s.m.fb (y, x)

/-! ## Sizes -/

/-- The named constants have the values of 00_scope.md R7, and the ones computed from them agree with them. -/
theorem test_sizes :
    (memSize, nregs, regWidth, stackDepth, stackWidth) = (4096, 16, 8, 16, 16) ∧
    (pcWidth, iWidth, timerWidth, insnWidth) = (16, 16, 8, 16) ∧
    (fbW, fbH, nkeys, origin, fontBase, fontSize) = (64, 32, 16, 0x200, 0x000, 80) ∧
    (maxAddr, imageSize, spValues, fbSize, 16 * glyphSize) =
      (memSize - 1, memSize - origin, stackDepth + 1, fbW * fbH, fontSize) := by decide

/-! ## WellFormed -/

/-- The one check of WellFormed refuses a row count of 16 and takes 15 (30_encoding.md R82). -/
theorem test_wellFormed_drw : ¬(Instr.drw 0 0 16).WellFormed ∧ (Instr.drw 0 0 15).WellFormed := by decide

/-! ## Decoding: words written out from the formats of 30_encoding.md R81 and the rows of R87 -/

/-- 0x0yz0 and 0x0yzE: 0000 0000 1110 0000 is 00E0, 0000 0000 1110 1110 is 00EE (vectors E1 to E5). -/
theorem test_decode_family_0 :
    decodeWord 0b0000_0000_1110_0000 = .ok (.cls 0x0E) ∧ decodeWord 0b0000_0000_1110_1110 = .ok (.ret 0x0E) ∧
    decodeWord 0x0000 = .ok (.cls 0x00) ∧ decodeWord 0x0120 = .ok (.cls 0x12) ∧ decodeWord 0x012E = .ok (.ret 0x12) := by
  decide

/-- Families 1, 2 and A hold a 12-bit address. -/
theorem test_decode_addresses :
    decodeWord 0b0001_0010_0011_0100 = .ok (.jp 0x234) ∧ decodeWord 0b0010_0010_0000_1100 = .ok (.call 0x20C) ∧
    decodeWord 0b1010_0011_0000_0000 = .ok (.ldI 0x300) := by decide

/-- Families 3, 4, 6, 7 and C hold a register and an immediate. -/
theorem test_decode_immediates :
    decodeWord 0b0011_0011_0100_0010 = .ok (.seImm 3 0x42) ∧ decodeWord 0b0100_0011_0100_0010 = .ok (.sneImm 3 0x42) ∧
    decodeWord 0b0110_1010_0010_1111 = .ok (.ldImm 10 0x2F) ∧ decodeWord 0b0111_1111_1111_1110 = .ok (.addImm 15 0xFE) ∧
    decodeWord 0b1100_0011_0000_1111 = .ok (.rnd 3 0x0F) := by decide

/-- Family 8 holds two registers and selects on its low nibble. -/
theorem test_decode_family_8 :
    decodeWord 0b1000_0001_0010_0000 = .ok (.ldReg 1 2) ∧ decodeWord 0b1000_0001_0010_0010 = .ok (.andReg 1 2) ∧
    decodeWord 0b1000_0001_0010_0011 = .ok (.xorReg 1 2) ∧ decodeWord 0b1000_0001_0010_0100 = .ok (.addReg 1 2) ∧
    decodeWord 0b1000_0001_0010_0101 = .ok (.subReg 1 2) ∧ decodeWord 0b1000_0001_0010_0110 = .ok (.shr 1 2) := by
  decide

/-- Families 9 and D: two registers, then ignored bits or a row count (vector E7). -/
theorem test_decode_families_9_D :
    decodeWord 0b1001_0001_0010_0000 = .ok (.sneReg 1 2 0) ∧ decodeWord 0b1001_0001_0010_0001 = .ok (.sneReg 1 2 1) ∧
    decodeWord 0b1101_0001_0010_0101 = .ok (.drw 1 2 5) := by decide

/-- Family E selects on its low byte (vector E11). -/
theorem test_decode_family_E :
    decodeWord 0b1110_0001_1001_1110 = .ok (.skp 1) ∧ decodeWord 0b1110_0001_1010_0001 = .ok (.sknp 1) := by decide

/-- Family F selects on its low byte (vector E13). -/
theorem test_decode_family_F :
    decodeWord 0b1111_0001_0000_0111 = .ok (.ldVDt 1) ∧ decodeWord 0b1111_0001_0000_1010 = .ok (.ldVK 1) ∧
    decodeWord 0b1111_0001_0001_0101 = .ok (.ldDtV 1) ∧ decodeWord 0b1111_0001_0001_1000 = .ok (.ldStV 1) ∧
    decodeWord 0b1111_0001_0001_1110 = .ok (.addI 1) ∧ decodeWord 0b1111_0001_0010_1001 = .ok (.ldF 1) ∧
    decodeWord 0b1111_0001_0011_0011 = .ok (.ldB 1) ∧ decodeWord 0b1111_0001_0101_0101 = .ok (.ldMemV 1) ∧
    decodeWord 0b1111_0001_0110_0101 = .ok (.ldVMem 1) := by decide

/-- Words that select nothing, each with its family (vectors E6, E8, E9, E10, E12, E14). -/
theorem test_decode_unknown :
    decodeWord 0x0001 = .error .unknownFamily0 ∧ decodeWord 0x00E1 = .error .unknownFamily0 ∧
    decodeWord 0x00FF = .error .unknownFamily0 ∧ decodeWord 0x5121 = .error .unknownFamily5 ∧
    decodeWord 0xB123 = .error .unknownFamilyB ∧ decodeWord 0x8121 = .error .unknownFamily8 ∧
    decodeWord 0x8127 = .error .unknownFamily8 ∧ decodeWord 0x812E = .error .unknownFamily8 ∧
    decodeWord 0xE19F = .error .unknownFamilyE ∧ decodeWord 0xE1A2 = .error .unknownFamilyE ∧
    decodeWord 0xF175 = .error .unknownFamilyF ∧ decodeWord 0xF105 = .error .unknownFamilyF := by decide

/-- The encoder gives the words written out from R81 and R87. -/
theorem test_encode :
    encode (.cls 0x0E) = 0x00E0 ∧ encode (.ret 0x0E) = 0x00EE ∧ encode (.call 0x20C) = 0x220C ∧
    encode (.ldImm 10 0x2F) = 0x6A2F ∧ encode (.subReg 15 1) = 0x8F15 ∧ encode (.drw 1 2 5) = 0xD125 ∧
    encode (.sknp 3) = 0xE3A1 ∧ encode (.ldVMem 12) = 0xFC65 := by decide

/-- No two rows of the opcode map select one word: where both masks look, some pattern bit differs. -/
theorem test_rows_do_not_overlap :
    opcodeRows.Pairwise fun r r' => r.pattern &&& r'.mask ≠ r'.pattern &&& r.mask := by decide

/-- A decoder takes two bytes, the high one first, and refuses fewer (30_encoding.md R80; 20_memory.md R54). -/
theorem test_decode_bytes :
    decode [0x12, 0x34, 0x56] = .ok (.jp 0x234, [0x56]) ∧ decode [0x12] = .error .truncated ∧
    decodeTableWord 16 0xD125 = some (.drw 1 2 5) ∧ decodeTableWord 16 0xB123 = none := by decide

/-! ## Display -/

/-- Vector D1, on a screen with two pixels set: all blank, dirty set, VF kept. -/
theorem test_cls :
    after ((with3 start 0 0 7).setFb (flipPixel (flipPixel (Vector.replicate 32 0) (0, 0)) (31, 63))) 0x00E0
      (fun t => (t.m.fb, t.m.dirty, t.reg 15, t.m.pc)) = some (Vector.replicate 32 0, true, 7, 0x202) := by decide

/-- Vector D5: a row at column 62 wraps, and columns 62, 63, 0 to 5 are set, 6 and 61 are not. -/
theorem test_drw_wraps :
    after (((with3 start 0x3E 0 0).writeByte 0x300 0xFF).setI 0x300) 0xD011
      (fun t => ([px t 61 0, px t 62 0, px t 63 0, px t 0 0, px t 5 0, px t 6 0], t.reg 15, t.m.i)) =
      some ([false, true, true, true, true, false], 0, 0x300) := by decide +kernel

/-- Vectors D7 and D8: under ANTI_FLICKER a draw of two bits with one hit sets dirty, an erase-only draw does not. -/
theorem test_drw_dirty :
    after (((start'.setFb (flipPixel (Vector.replicate 32 0) (0, 0))).writeByte 0x300 0xC0).setI 0x300) 0xD011
      (fun t => (px t 0 0, px t 1 0, t.reg 15, t.m.dirty)) = some (false, true, 1, true) ∧
    after (((start'.setFb (flipPixel (Vector.replicate 32 0) (0, 0))).writeByte 0x300 0x80).setI 0x300) 0xD011
      (fun t => (px t 0 0, t.reg 15, t.m.dirty)) = some (false, 1, false) := by decide +kernel

/-! ## Control transfer and skips -/

/-- Vector B1. -/
theorem test_jp : after start 0x1234 (fun t => (t.m.pc, t.status)) = some (0x234, .ok) := by decide

/-- Vector B4: the address of the CALL itself is pushed. -/
theorem test_call : after (start.setPc 0x204) 0x220C (fun t => (t.m.stack[0], t.m.sp, t.m.pc)) =
    some (0x204, 1, 0x20C) := by decide

/-- Vector B5: the seventeenth entry faults and nothing moves. -/
theorem test_call_overflow : after (start.setSp 16) 0x2300 (fun t => (t.fault, t.m.sp, t.m.pc, t.status)) =
    some ({ code := .stackOverflow, pc := 0x200, insn := 0x2300, addr := 16 }, 16, 0x200, .fault) := by decide

/-- Vector B6: the popped entry stays in the stack. -/
theorem test_ret : after ((start.setSp 1).setStack 0 0x204) 0x00EE (fun t => (t.m.sp, t.m.pc, t.m.stack[0])) =
    some (0, 0x206, 0x204) := by decide

/-- Vector B7; the alias word 012E latches itself. -/
theorem test_ret_underflow : after start 0x012E (fun t => (t.fault, t.m.pc)) =
    some ({ code := .stackUnderflow, pc := 0x200, insn := 0x012E, addr := 0 }, 0x200) := by decide

/-- Vector B8. -/
theorem test_seImm : after (start.setReg 3 0x42) 0x3342 (·.m.pc) = some 0x204 ∧
    after (start.setReg 3 0x42) 0x3343 (·.m.pc) = some 0x202 := by decide

/-- Vector B9. -/
theorem test_sneImm : after (start.setReg 3 0x42) 0x4300 (·.m.pc) = some 0x204 ∧
    after (start.setReg 3 0x42) 0x4342 (·.m.pc) = some 0x202 := by decide

/-- Vectors B10 and B11: the low nibble is ignored. -/
theorem test_sneReg : after ((start.setReg 1 1).setReg 2 2) 0x9121 (·.m.pc) = some 0x204 ∧
    after (start.setReg 1 1) 0x9110 (·.m.pc) = some 0x202 := by decide

/-! ## Register loads and 8-bit arithmetic -/

/-- Vector A1. -/
theorem test_ldImm : after start 0x6A2F (fun t => (t.reg 10, t.m.pc)) = some (0x2F, 0x202) := by decide

/-- Vectors A2 and A4: modulo 256, and no carry is recorded. -/
theorem test_addImm : after (with3 start 0xFE 0 9) 0x7005 (fun t => (t.reg 0, t.reg 15)) = some (3, 9) ∧
    after (with3 start 0 0 1) 0x7FFF (·.reg 15) = some 0 := by decide

/-- Vector A5. -/
theorem test_ldReg : after (with3 start 0 0x77 0) 0x8010 (fun t => (t.reg 0, t.reg 1)) = some (0x77, 0x77) := by decide

/-- Vector A6: VF is not reset. -/
theorem test_andReg : after (with3 start 0xF0 0x3C 5) 0x8012 (fun t => (t.reg 0, t.reg 15)) = some (0x30, 5) := by decide

/-- Vector A7. -/
theorem test_xorReg : after (with3 start 0xF0 0x3C 5) 0x8013 (fun t => (t.reg 0, t.reg 15)) = some (0xCC, 5) := by decide

/-- Vectors W4 and A10. -/
theorem test_addReg : after (with3 start 0xFF 2 0) 0x8014 (fun t => (t.reg 0, t.reg 15)) = some (1, 1) ∧
    after (with3 start 0x80 0x80 0) 0x8014 (fun t => (t.reg 0, t.reg 15)) = some (0, 1) := by decide

/-- Vectors A12, A13 and A14: with VF as an operand the sum reads the flag. -/
theorem test_addReg_vf : after (with3 start 0 2 0xFF) 0x8F14 (·.reg 15) = some 3 ∧
    after (with3 start 0xFF 0 5) 0x80F4 (fun t => (t.reg 0, t.reg 15)) = some (0, 1) ∧
    after (with3 start 0 0 0x80) 0x8FF4 (·.reg 15) = some 2 := by decide

/-- Vector W5, its three cases. -/
theorem test_subReg : after (with3 start 3 5 9) 0x8015 (fun t => (t.reg 0, t.reg 15)) = some (0xFE, 0) ∧
    after (with3 start 5 3 9) 0x8015 (fun t => (t.reg 0, t.reg 15)) = some (2, 1) ∧
    after (with3 start 7 7 9) 0x8015 (fun t => (t.reg 0, t.reg 15)) = some (0, 1) := by decide

/-- Vectors A15, A16 and A17. -/
theorem test_subReg_vf : after (with3 start 0 1 0x10) 0x8F15 (·.reg 15) = some 0 ∧
    after (with3 start 0x10 0 0x20) 0x80F5 (fun t => (t.reg 0, t.reg 15)) = some (0x10, 0) ∧
    after (with3 start 0 0 0x37) 0x8FF5 (·.reg 15) = some 0 := by decide

/-- Vectors A18 and A21: the second register is ignored. -/
theorem test_shr : after (start.setReg 2 5) 0x8206 (fun t => (t.reg 2, t.reg 15)) = some (2, 1) ∧
    after (with3 start 4 0xFF 1) 0x8016 (fun t => (t.reg 0, t.reg 1, t.reg 15)) = some (2, 0xFF, 0) := by decide

/-- Vector A22. -/
theorem test_shr_vf : after (with3 start 0 0 3) 0x8F06 (·.reg 15) = some 0 := by decide

/-- Vector A23 for every draw: the first draw masked by 0F, and the draw is used up. -/
theorem test_rnd : after start 0xC30F (fun t => (t.reg 3, t.draws)) = some (Config.rnd 0 &&& 0x0F, 1) := rfl

/-! ## Index register and memory -/

/-- Vector M1. -/
theorem test_ldI : after start 0xA300 (fun t => (t.m.i, t.m.pc)) = some (0x300, 0x202) := by decide

/-- Vectors M3 and M4: no 12-bit mask, and 16 bits wrap. -/
theorem test_addI : after ((with3 start 5 0 0).setI 0xFFF) 0xF01E (fun t => (t.m.i, t.reg 15)) = some (0x1004, 1) ∧
    after ((with3 start 1 0 0).setI 0xFFFF) 0xF01E (fun t => (t.m.i, t.reg 15)) = some (0, 1) := by decide

/-- Vector M5: the addend VF is read after the flag. -/
theorem test_addI_vf : after ((with3 start 0 0 2).setI 0xFFE) 0xFF1E (fun t => (t.m.i, t.reg 15)) =
    some (0xFFF, 1) := by decide

/-- Vectors M7 and M8: not masked to the low nibble. -/
theorem test_ldF : after (start.setReg 10 0x0A) 0xFA29 (·.m.i) = some 0x032 ∧
    after (start.setReg 0 0xFF) 0xF029 (·.m.i) = some 0x4FB := by decide

/-- Vectors M9 and M13. -/
theorem test_ldB :
    after ((start.setReg 0 254).setI 0x300) 0xF033
      (fun t => (t.readByte 0x300, t.readByte 0x301, t.readByte 0x302, t.m.i)) = some (2, 5, 4, 0x300) ∧
    after ((start.setReg 0 254).setI 0xFFE) 0xF033 (fun t => (t.fault.code, t.fault.addr, t.readByte 0xFFE)) =
      some (.dataOob, 0x1000, 0) := by decide

/-- Vector M14 for both values of LEGACY_INCREMENT. -/
theorem test_ldMemV :
    after (((with3 start 1 2 0).setReg 2 3).setI 0x300) 0xF255
      (fun t => (t.readByte 0x300, t.readByte 0x301, t.readByte 0x302, t.readByte 0x303, t.m.i)) =
      some (1, 2, 3, 0, 0x300) ∧
    after (((with3 start' 1 2 0).setReg 2 3).setI 0x300) 0xF255 (·.m.i) = some 0x303 := by decide

/-- Vector M16: nothing is written, and `I` is kept. -/
theorem test_ldMemV_oob :
    after ((start'.setReg 0 9).setI 0xFF1) 0xFF55
      (fun t => (t.fault.code, t.fault.addr, t.readByte 0xFF1, t.m.i)) = some (.dataOob, 0x1000, 0, 0xFF1) := by decide

/-- Vector M17 for both values of LEGACY_INCREMENT; V3 is kept. -/
theorem test_ldVMem :
    after (((start.setReg 3 7).writeBytes 0x300 [2, 5, 4, 6]).setI 0x300) 0xF265
      (fun t => (t.reg 0, t.reg 1, t.reg 2, t.reg 3, t.m.i)) = some (2, 5, 4, 7, 0x300) ∧
    after ((start'.writeBytes 0x300 [2, 5, 4, 6]).setI 0x300) 0xF265 (·.m.i) = some 0x303 := by decide

/-- Vector M19. -/
theorem test_ldVMem_oob : after (start.setI 0x1004) 0xF065 (fun t => (t.fault, t.m.pc)) =
    some ({ code := .dataOob, pc := 0x200, insn := 0xF065, addr := 0x1004 }, 0x200) := by decide

/-! ## Keys and timers -/

/-- Vectors K1 and K2. -/
theorem test_skp : after ((start.setReg 1 7).setKeys 0x0080) 0xE19E (·.m.pc) = some 0x204 ∧
    after (start.setReg 1 7) 0xE19E (·.m.pc) = some 0x202 := by decide

/-- Vectors K3 and K4. -/
theorem test_sknp : after (start.setReg 1 7) 0xE1A1 (·.m.pc) = some 0x204 ∧
    after ((start.setReg 1 7).setKeys 0x0080) 0xE1A1 (·.m.pc) = some 0x202 := by decide

/-- Vector K5, for both tests. -/
theorem test_key_index : after (start.setReg 0 0x10) 0xE09E (·.fault) =
      some { code := .keyIndex, pc := 0x200, insn := 0xE09E, addr := 0x10 } ∧
    after (start.setReg 0 0x10) 0xE0A1 (·.fault) =
      some { code := .keyIndex, pc := 0x200, insn := 0xE0A1, addr := 0x10 } := by decide

/-- Vector K6. -/
theorem test_ldVDt : after (start.setDt 0x3C) 0xF307 (fun t => (t.reg 3, t.m.dt)) = some (0x3C, 0x3C) := by decide

/-- Vector K8 for both picks. -/
theorem test_ldVK : after (start.setKeys 0x0208) 0xF00A (fun t => (t.reg 0, t.m.pc)) = some (3, 0x202) ∧
    after (start'.setKeys 0x0208) 0xF00A (fun t => (t.reg 0, t.m.pc)) = some (9, 0x202) := by decide

/-- Vector K7. -/
theorem test_ldVK_wait : after (start.setReg 0 5) 0xF00A (fun t => (t.status, t.reg 0, t.m.pc)) =
    some (.wait, 5, 0x200) := by decide

/-- Vector K11. -/
theorem test_ldDtV : after (start.setReg 0 5) 0xF015 (fun t => (t.m.dt, t.m.st, t.m.pc)) = some (5, 0, 0x202) := by decide

/-- Vector K12. -/
theorem test_ldStV : after (start.setReg 1 2) 0xF118 (fun t => (t.m.st, t.m.dt, t.soundOn)) = some (2, 0, true) := by decide

/-! ## Cycles: ticks, host commands, unknown words, reset -/

/-- Vectors K13, K14 and K15. -/
theorem test_tick :
    afterCycle (start.setDt 5) none true false (fun t => (t.m.dt, t.m.st)) = some (4, 0) ∧
    afterCycle start none true false (fun t => (t.m.dt, t.m.st)) = some (0, 0) ∧
    afterCycle ((start.setDt 1).setSt 1) none true false (fun t => (t.m.dt, t.m.st, t.soundOn)) =
      some (0, 0, false) := by decide

/-- Vectors K16 and K17: the tick comes before the step of its cycle. -/
theorem test_tick_and_step :
    afterCycle (holding ((start.setDt 9).setReg 0 5) 0xF015) none true true (·.m.dt) = some 5 ∧
    afterCycle (holding (start.setDt 3) 0xF307) none true true (·.reg 3) = some 2 := by decide

/-- Vector K18, and the first of vectors H2. -/
theorem test_halted :
    afterCycle (halted (start.setDt 4)) none true true (fun t => (t.m.dt, t.status, t.fault.code)) =
      some (3, .halted, .stackUnderflow) ∧
    afterCycle (halted (holding start 0x00EE)) (some .clearFault) false true (fun t => (t.status, t.fault)) =
      some (.fault, { code := .stackUnderflow, pc := 0x200, insn := 0x00EE, addr := 0 }) := by decide

/-- Vector B3, its second step. -/
theorem test_fetch_oob : afterCycle (start.setPc 0xFFF) none false true (fun t => (t.fault, t.status)) =
    some ({ code := .fetchOob, pc := 0xFFF, insn := 0, addr := 0x1000 }, .fault) := by decide

/-- Vectors B12, its second step, and B13: an odd `pc` fetches as any other. -/
theorem test_fetch : afterCycle (start.setPc 0x1002) none false true (·.fault.addr) = some 0x1002 ∧
    after (start.setPc 0x201) 0x1234 (·.m.pc) = some 0x234 := by decide

/-- Vector U1. -/
theorem test_unknown : after start 0x5120 (fun t => (t.status, t.logWord, t.logPc, t.m.pc, t.fault.code)) =
    some (.unknown, 0x5120, 0x200, 0x200, .none) := by decide

/-- Vectors H4 and H3. -/
theorem test_restore :
    afterCycle (start.setReg 0 1) (some .restore) false false (fun t => (t.response, t.reg 0)) = some (.noSnapshot, 1) ∧
    afterCycle (halted { start with snap := some (start.setReg 0 1).m }) (some .restore) false false
      (fun t => (t.response, t.reg 0, t.fault.code, t.snapValid)) = some (.none, 1, .none, true) := by decide

/-- Vector H5, its SAVE. -/
theorem test_save : afterCycle (start.setReg 0 1) (some .save) false false (·.snap) =
    some (some (start.setReg 0 1).m) := by decide

/-- Vector H6. -/
theorem test_clearDirty : afterCycle (holding start 0x00E0) (some .clearDirty) false true (·.m.dirty) = some true ∧
    afterCycle (start.setDirty true) (some .clearDirty) false false (·.m.dirty) = some false := by decide

/-- Vector H7, and the last address that exists. -/
theorem test_loadWrite : afterCycle start (some (.loadWrite 0x1000 0x55)) false false (·.m.memory) = some [] ∧
    afterCycle start (some (.loadWrite 0xFFF 0x55)) false false (·.m.memory) = some [(0xFFF, 0x55)] := by decide

/-- Vector H8: the step sees the keys of its own cycle. -/
theorem test_setKeys : afterCycle (holding (start.setReg 0 8) 0xE09E) (some (.setKeys 0x0100)) false true (·.m.pc) =
    some 0x204 := by decide

/-- Vector R1: a reset cycle executes no instruction, whatever else it asserts. -/
theorem test_reset :
    (match step { halted (holding (start'.setReg 0 9) 0x1234) with
        host := [{ reset := some start.cfg, command := some .save, tick := true, step := true }] } with
      | .next t => decide (t = start)
      | _ => false) = true := by decide

/-- 10_state.md R37 and the default font: the first and the last glyph byte, the byte after it, `pc`. -/
theorem test_reset_memory : State.reset.readByte 0 = 0xF0 ∧ State.reset.readByte 79 = 0x80 ∧
    State.reset.readByte 80 = 0 ∧ State.reset.m.pc = 0x200 := by decide

/-- Vectors R2 and R4: the loader's cycles. -/
theorem test_loader :
    loaderCycles start.cfg [0x12, 0x00] =
      [{ reset := some start.cfg, command := none, tick := false, step := false },
        { reset := none, command := some (.loadWrite 0x200 0x12), tick := false, step := false },
        { reset := none, command := some (.loadWrite 0x201 0x00), tick := false, step := false }] ∧
    (loaderCycles start.cfg (List.replicate 0xE01 0)).length = 1 := by
  constructor
  · decide
  · rw [loaderCycles, if_neg (by rw [List.length_replicate]; decide)]
    rfl

/-- Vector R5, its first step: the zeros of empty memory run as CLS. -/
theorem test_empty_memory_runs : (match step start with
    | .next t => (t.status, t.m.pc, t.m.dirty)
    | _ => (.halted, 0, false)) = (.ok, 0x202, true) := by decide

/-- The output views: `fault_code`, `sp`, and bit 64 of `fb`, which is pixel (0, 1) (10_state.md R35). -/
theorem test_outputs : (halted start).fault.code.bits = 4 ∧ (start.setSp 16).spBits = 16 ∧
    (start.setFb (flipPixel (Vector.replicate 32 0) (1, 0))).fbOut 64 = true := by decide

/-! ## Witnesses: for every statement with hypotheses a state and operands that meet them, clause by clause -/

/-- ClsClearsTheDisplay to SneRegSkipsWhenDifferent have hypotheses only for DRW, CALL and RET. DRW: the last byte is in
range, one past it is not, and with no row any `I` is. -/
theorem witness_DrwDrawsASprite :
    (15 ≤ 15 ∧ Reaches (start.setI 0xFF1) 15) ∧ Reaches (start.setI 0xFFF) 1 ∧ Reaches (start.setI 0x5000) 0 ∧
    ¬Reaches (start.setI 0xFFF) 2 ∧ ¬Reaches (start.setI 0xFFFF) 1 := by
  unfold Reaches; decide

theorem witness_CallPushesOrOverflows :
    start.m.sp.val < 16 ∧ (start.setSp 15).m.sp.val < 16 ∧ (start.setSp 16).m.sp.val = 16 := by decide

theorem witness_RetPopsOrUnderflows :
    ((start.setSp 1).m.sp.val = 0 + 1 ∧ 0 < 16) ∧ ((start.setSp 16).m.sp.val = 15 + 1 ∧ 15 < 16) ∧
    start.m.sp.val = 0 := by decide

/-- AddRegCarriesThenAdds, SubRegBorrowsThenSubtracts, ShrShiftsVxRight: registers other than x and VF, and x itself
other than VF. The statements hold for x = 15 too, through their first clause. -/
theorem witness_arithmetic : (0 : RegIdx) ≠ 15 ∧ (14 : RegIdx) ≠ 0 ∧ (14 : RegIdx) ≠ 15 := by decide

theorem witness_LdBStoresDecimalDigits :
    (Reaches (start.setI 0xFFD) 3 ∧ Memory.wf start.cfg.font (start.setI 0xFFD).m.memory = true) ∧
    (0xFFC < (start.setI 0xFFD).dataAddr 0) ∧ ¬Reaches (start.setI 0xFFE) 3 := by
  unfold Reaches; decide

theorem witness_LdMemVStoresRegisters :
    (Reaches (start.setI 0xFF0) ((15 : RegIdx).val + 1) ∧ Memory.wf start.cfg.font start.m.memory = true) ∧
    Reaches (start.setI 0xFFF) ((0 : RegIdx).val + 1) ∧ ¬Reaches (start.setI 0xFF1) ((15 : RegIdx).val + 1) := by
  unfold Reaches; decide

theorem witness_LdVMemLoadsRegisters :
    Reaches (start'.setI 0xFF0) ((15 : RegIdx).val + 1) ∧ Reaches (start.setI 0xFFF) ((0 : RegIdx).val + 1) ∧
    ¬Reaches (start.setI 0x1000) ((0 : RegIdx).val + 1) := by
  unfold Reaches; decide

theorem witness_KeyTestsSkip :
    ((start.setReg 1 15).m.v[(1 : RegIdx)]).toNat ≤ 15 ∧ ((start.setReg 1 16).m.v[(1 : RegIdx)]).toNat > 15 := by decide

theorem witness_LdVKWaitsForAKey :
    start.m.keys = 0 ∧ ((start.setKeys 0x8000).m.keys ≠ 0 ∧ (start.setKeys 0x8000).cfg.keywaitPick = .lowest) ∧
    ((start'.setKeys 0x0001).m.keys ≠ 0 ∧ (start'.setKeys 0x0001).cfg.keywaitPick = .highest) := by decide

theorem witness_DecodeOfEncodeIsTheInstruction :
    (Instr.drw 1 2 15).WellFormed ∧ (Instr.drw 1 2 0).WellFormed ∧ (Instr.cls 0x0E).WellFormed := by decide

theorem witness_EncodeOfDecodeIsTheWord : decodeWord 0xFFFF = .error .unknownFamilyF ∧
    decodeWord 0x0000 = .ok (.cls 0) ∧ decodeWord 0xDFFF = .ok (.drw 15 15 15) := by decide

/-- OpcodeMapSelectsOneRow: a word that a row matches, and one that none matches. -/
theorem witness_OpcodeMapSelectsOneRow :
    (⟨"LD B, Vx", 0xF033, 0xF0FF⟩ ∈ opcodeRows ∧ (0xF733 : Word) &&& 0xF0FF = 0xF033) ∧
    (∀ r ∈ opcodeRows, (0x5120 : Word) &&& r.mask ≠ r.pattern) := by decide

/-- UnknownWordsAreTheListedOnes and PcMovesByClass: a step on an unknown word, in the last place a word can be fetched. -/
theorem witness_UnknownWordsAreTheListedOnes :
    (holding (start.setPc 0xFFE) 0xB123).stepGiven = true ∧ Ready (holding (start.setPc 0xFFE) 0xB123).afterHost ∧
    decodeWord (wordAtPc (holding (start.setPc 0xFFE) 0xB123).afterHost) = .error .unknownFamilyB := by
  unfold Ready; decide

/-- StepRunsTheDecodedInstruction: a step after a command and a tick, a cycle without a step, and nothing scheduled,
there at the last address a word can be fetched from. -/
theorem witness_StepRunsTheDecodedInstruction :
    ((facing (holding start 0x8014) (some (.setKeys 1)) true true).stepGiven = true ∧
      Ready (facing (holding start 0x8014) (some (.setKeys 1)) true true).afterHost ∧
      decodeWord (wordAtPc (facing (holding start 0x8014) (some (.setKeys 1)) true true).afterHost) =
        .ok (.addReg 0 1)) ∧
    (facing start (some .save) true false).stepGiven = false ∧
    ((holding (start.setPc 0xFFE) 0x8014).host = [] ∧ Ready (holding (start.setPc 0xFFE) 0x8014) ∧
      decodeWord (wordAtPc (holding (start.setPc 0xFFE) 0x8014)) = .ok (.addReg 0 1)) := by
  unfold Ready; decide

theorem witness_UnknownWordOnlyLogs :
    (holding start 0x5120).stepGiven = true ∧ Ready (holding start 0x5120).afterHost ∧
    (∀ r ∈ opcodeRows, wordAtPc (holding start 0x5120).afterHost &&& r.mask ≠ r.pattern) := by
  unfold Ready; decide

/-- FetchAboveMemoryFaults: one byte of the word exists, and none does. -/
theorem witness_FetchAboveMemoryFaults :
    ((start.setPc 0xFFF).stepGiven = true ∧ (start.setPc 0xFFF).afterHost.fault.code = .none ∧
      0xFFE < (start.setPc 0xFFF).afterHost.m.pc.toNat) ∧ 0xFFE < (start.setPc 0xFFFF).afterHost.m.pc.toNat := by decide

theorem witness_HaltedStepDoesNothing :
    ((halted start).stepGiven = true ∧ (halted start).afterHost.fault.code ≠ .none) ∧
    ((facing (halted start) none true true).fault.code ≠ .none ∧
      (facing (halted start) none true true).host =
        { reset := none, command := none, tick := true, step := true } :: []) := by decide

/-- A state at an unknown word, with a SAVE without a step and a tick with one scheduled. -/
def stalled : State :=
  { holding start 0x5120 with
    host := [{ reset := none, command := some .save, tick := false, step := false },
      { reset := none, command := none, tick := true, step := true }] }

/-- UnknownWordStalls: three quiet cycles, the last past the schedule. For its last clause: after the two scheduled
cycles, of which the last alone gives a step, and after the third, which gives one by log 3. -/
theorem witness_UnknownWordStalls :
    (stalled.fault.code = .none ∧ stalled.AtUnknown ∧ ∀ c ∈ stalled.host.take 3, Quiet c) ∧
    (2 ≠ 0 ∧ ∀ c, stalled.host[2 - 1]? = some c → c.step = true) ∧
    (3 ≠ 0 ∧ ∀ c, stalled.host[3 - 1]? = some c → c.step = true) := by
  refine ⟨⟨rfl, ⟨by decide, .unknownFamily5, by decide⟩, fun c hc => ?_⟩, ⟨by decide, fun c hc => ?_⟩,
    by decide, fun c hc => ?_⟩
  · rw [stalled, List.take_of_length_le (by decide)] at hc
    simp only [List.mem_cons, List.not_mem_nil, or_false] at hc
    rcases hc with rfl | rfl <;> exact ⟨rfl, by decide, by simp⟩
  · cases hc; rfl
  · cases hc

/-- OnlyTheListedCausesFault and FaultsArePrecise: every code is latched by some step, from no latched fault. -/
theorem witness_faults :
    (after (start.setSp 16) 0x2300 (·.fault.code) = some .stackOverflow) ∧
    (after start 0x00EE (·.fault.code) = some .stackUnderflow) ∧
    (after (start.setI 0xFFF) 0xD012 (·.fault.code) = some .dataOob) ∧
    (after (start.setReg 0 16) 0xE09E (·.fault.code) = some .keyIndex) ∧
    (afterCycle (start.setPc 0xFFF) none false true (·.fault.code) = some .fetchOob) ∧
    (after start 0x00E0 (·.fault.code) = some .none) ∧
    (holding start 0x00EE).stepGiven = true ∧ (holding start 0x00EE).afterHost.fault.code = .none := by decide

/-- FaultsArePrecise, all its hypotheses of one state. -/
theorem witness_FaultsArePrecise : ∃ t, (holding start 0x00EE).stepGiven = true ∧
    (holding start 0x00EE).afterHost.fault.code = .none ∧ step (holding start 0x00EE) = .next t ∧
    t.fault.code ≠ .none :=
  ⟨(holding start 0x00EE).raise .stackUnderflow 0x00EE 0, by decide, by decide, rfl, by decide⟩

theorem witness_OnlyTheHostClearsAFault :
    ((halted start).fault.code ≠ .none ∧ ∃ t, step (halted start) = .next t) ∧
    ({ start with snap := some start.m } : State).snap.isSome = true :=
  ⟨⟨by decide, _, rfl⟩, rfl⟩

/-- CycleOrderIsResetCommandTickStep: a reset cycle; a step after command and tick, after a tick alone (vector K17),
after a command alone and after neither; and a cycle without a step. -/
theorem witness_CycleOrderIsResetCommandTickStep :
    (∃ c : Cycle, c.reset = some start.cfg ∧ ({ start with host := [c] } : State).host = c :: []) ∧
    (∀ k ∈ [none, some HostCommand.clearFault], ∀ tick : Bool,
      (facing (holding start 0xF307) k tick true).host =
        { reset := none, command := k, tick := tick, step := true } :: [] ∧
      Ready (facing (holding start 0xF307) k tick true).afterHost ∧
      decodeWord (wordAtPc (facing (holding start 0xF307) k tick true).afterHost) = .ok (.ldVDt 3)) ∧
    (facing start (some .clearFault) true false).cycle.step = false := by
  refine ⟨⟨{ reset := some start.cfg, command := none, tick := false, step := false }, rfl, rfl⟩, ?_, rfl⟩
  unfold Ready; decide

theorem witness_ClearDirtyYieldsToTheStep :
    (facing (holding start 0x00E0) (some .clearDirty) false true).host =
      { reset := none, command := some .clearDirty, tick := false, step := true } :: [] ∧
    Ready (facing (holding start 0x00E0) (some .clearDirty) false true) ∧
    decodeWord (wordAtPc (facing (holding start 0x00E0) (some .clearDirty) false true)) = .ok (.cls 0x0E) ∧
    (∃ u, exec (.cls 0x0E) ((facing (holding start 0x00E0) (some .clearDirty) false true).setDirty false) = .next u ∧
      u.m.dirty = true) ∧
    ∃ t, step (facing (holding start 0x00E0) (some .clearDirty) false true) = .next t :=
  ⟨rfl, ⟨by decide, by decide⟩, by decide, ⟨_, rfl, rfl⟩, _, rfl⟩

/-- HostCommandsAct: the last address that exists and the first that does not, no snapshot and one. -/
theorem witness_HostCommandsAct :
    (0xFFF ≤ 0xFFF ∧ Memory.wf start.cfg.font start.m.memory = true) ∧ 0xFFF < 0x1000 ∧ start.snap = none ∧
    ({ start with snap := some start.m } : State).snap = some start.m := by decide

/-- The cycles between a SAVE and a RESTORE: a step, a key change with a tick, and another RESTORE with a step. -/
def between : List Cycle :=
  [{ reset := none, command := none, tick := false, step := true },
    { reset := none, command := some (.setKeys 1), tick := true, step := true },
    { reset := none, command := some .restore, tick := false, step := true }]

/-- RestoreRewindsToTheSave, from a latched fault. -/
theorem witness_RestoreRewindsToTheSave :
    (∃ s : State, s.fault.code ≠ .none ∧
      s.host = { reset := none, command := some .save, tick := false, step := false } ::
        (between ++ { reset := none, command := some .restore, tick := false, step := false } :: [])) ∧
    ∀ c ∈ between, c.reset = none ∧ c.command ≠ some .save :=
  ⟨⟨{ halted start with
      host := { reset := none, command := some .save, tick := false, step := false } ::
        (between ++ { reset := none, command := some .restore, tick := false, step := false } :: []) },
    by decide, rfl⟩, by decide⟩

/-- LoaderPlacesTheImage: an image that fits, by its hypothesis on the schedule and its bounds, and one that does not. -/
theorem witness_LoaderPlacesTheImage :
    (({ start with host := loaderCycles start.cfg [0x12, 0x00] ++ [] } : State).host =
      loaderCycles start.cfg [0x12, 0x00] ++ []) ∧
    (1 < [(0x12 : Byte), 0x00].length ∧ [(0x12 : Byte), 0x00].length ≤ 0xE00) ∧
    0xE00 < (List.replicate 0xE01 (0 : Byte)).length := by
  refine ⟨rfl, by decide, ?_⟩
  rw [List.length_replicate]; decide

/-- StepKeepsTheInvariant: the start state meets the invariant, and so does a latched fault with a snapshot held. -/
theorem witness_StepKeepsTheInvariant :
    (start.Inv ∧ ∃ t, step start = .next t) ∧ (halted { start with snap := some start.m }).Inv := by
  refine ⟨⟨⟨rfl, fun _ h => ?_, ⟨rfl, rfl, rfl⟩⟩, _, rfl⟩, ⟨rfl, fun _ h => ?_, ⟨rfl, rfl, rfl, rfl⟩⟩⟩
  · cases h
  · cases h; rfl

/-- PcMovesByClass: an instruction that completes, one that waits and one that faults, each from status OK. Its second
part is about the words of witness_UnknownWordsAreTheListedOnes. -/
theorem witness_PcMovesByClass :
    (start.status = .ok ∧ ∃ t, exec (.jp 0x234) start = .next t) ∧ (∃ t, exec (.ldVK 0) start = .next t ∧
      t.status = .wait) ∧ ∃ t, exec (.ret 0x0E) start = .next t ∧ t.status = .fault :=
  ⟨⟨by decide, _, rfl⟩, ⟨start.setStatus .wait, by rfl, rfl⟩,
    ⟨start.raise .stackUnderflow 0x00EE 0, by rfl, rfl⟩⟩

/-- RegistersHaveOnlyTheirWriters: a destination register, and VF written as a flag. -/
theorem witness_RegistersHaveOnlyTheirWriters :
    (∃ t, exec (.ldImm 3 7) start = .next t ∧ t.m.v[(3 : RegIdx)] ≠ start.m.v[(3 : RegIdx)]) ∧
    ∃ t, exec (.addReg 0 1) (with3 start 0x80 0x80 0) = .next t ∧
      t.m.v[(15 : RegIdx)] ≠ (with3 start 0x80 0x80 0).m.v[(15 : RegIdx)] :=
  ⟨⟨_, rfl, by decide⟩, ⟨_, rfl, by decide⟩⟩

/-- MemoryHasOnlyItsWriters: the last of the three bytes of Fx33 changes, at the top of memory. -/
theorem witness_MemoryHasOnlyItsWriters :
    ∃ t, exec (.ldB 0) ((start.setReg 0 9).setI 0xFFD) = .next t ∧
      t.readByte 0xFFF ≠ ((start.setReg 0 9).setI 0xFFD).readByte 0xFFF :=
  ⟨_, rfl, by decide⟩

/-- SpecialStateHasOnlyItsWriters: each kind of state changes under one of its writers. -/
theorem witness_SpecialStateHasOnlyItsWriters :
    (∃ t, exec (.ldI 0x300) start = .next t ∧ t.m.i ≠ start.m.i) ∧
    (∃ t, exec (.ldMemV 0) start' = .next t ∧ t.m.i ≠ start'.m.i) ∧
    (∃ t, exec (.call 0x300) start = .next t ∧ t.m.stack ≠ start.m.stack ∧ t.m.sp ≠ start.m.sp) ∧
    (∃ t, exec (.ldDtV 0) (start.setReg 0 5) = .next t ∧ t.m.dt ≠ (start.setReg 0 5).m.dt) ∧
    (∃ t, exec (.ldStV 0) (start.setReg 0 5) = .next t ∧ t.m.st ≠ (start.setReg 0 5).m.st) ∧
    ∃ t, exec (.cls 0) start = .next t ∧ t.m.dirty ≠ start.m.dirty :=
  ⟨⟨_, rfl, by decide⟩, ⟨_, rfl, by decide⟩, ⟨_, rfl, by decide, by decide⟩, ⟨_, rfl, by decide⟩,
    ⟨_, rfl, by decide⟩, ⟨_, rfl, by decide⟩⟩

/-- PixelsHaveOnlyTheirWriters: a CLS of a screen with a pixel set. -/
theorem witness_PixelsHaveOnlyTheirWriters :
    ∃ t, step (holding (start.setFb (flipPixel (Vector.replicate 32 0) (0, 0))) 0x00E0) = .next t ∧
      t.m.fb ≠ (holding (start.setFb (flipPixel (Vector.replicate 32 0) (0, 0))) 0x00E0).m.fb :=
  ⟨_, rfl, by decide⟩

/-- InstructionsSeeMachineStateAlone: two states that differ in latch and snapshot. -/
theorem witness_InstructionsSeeMachineStateAlone :
    (halted start).m = start.m ∧ (halted start).cfg = start.cfg ∧ (halted start).draws = start.draws ∧
    ∃ t, exec (.ldImm 3 7) start = .next t :=
  ⟨rfl, rfl, rfl, _, rfl⟩

/-- RetResumesAfterTheCall: the deepest call that fits, then a jump before the return. -/
theorem witness_RetResumesAfterTheCall :
    (start.setSp 15).m.sp.val < 16 ∧ ∃ t, exec (.call 0x300) (start.setSp 15) = .next t ∧
      (t.setPc 0x400).m.stack = t.m.stack ∧ (t.setPc 0x400).m.sp = t.m.sp :=
  ⟨by decide, _, rfl, rfl, rfl⟩

/-- StoreThenLoadRestoresRegisters: all sixteen registers at the top of memory, with either value of LEGACY_INCREMENT,
and a register lost and `I` re-pointed in between. -/
theorem witness_StoreThenLoadRestoresRegisters :
    start.cfg.legacyIncrement = false ∧ start'.cfg.legacyIncrement = true ∧
    ∀ s ∈ [start.setI 0xFF0, start'.setI 0xFF0],
      Memory.wf s.cfg.font s.m.memory = true ∧ s.m.i.toNat + (15 : RegIdx).val ≤ 0xFFF ∧
      ∃ t, exec (.ldMemV 15) s = .next t ∧ ((t.setReg 3 9).setI 0xFF0).m.memory = t.m.memory ∧
        ((t.setReg 3 9).setI 0xFF0).m.i = s.m.i ∧ ((t.setReg 3 9).setI 0xFF0).cfg = t.cfg := by
  refine ⟨by decide, by decide, fun s hs => ?_⟩
  have inRange : s.dataInRange ((15 : RegIdx).val + 1) = true := by revert s; decide
  have pointed : s.m.i = 0xFF0 := by revert s; decide
  refine ⟨by revert s; decide, by rw [pointed]; decide, _, by rw [exec, execLdMemV, if_pos inRange], ?_, ?_, ?_⟩ <;>
    simp [pointed]

/-- DrawingTwiceRestoresThePixels: a sprite at the end of memory over a blank screen. -/
theorem witness_DrawingTwiceRestoresThePixels :
    (0 : RegIdx) ≠ 15 ∧ (14 : RegIdx) ≠ 15 ∧ 15 ≤ 15 ∧ Reaches (start.setI 0xFF1) 15 ∧
    ∀ rc ∈ sourceBits (start.setI 0xFF1) 15, pixelAt (start.setI 0xFF1).m.fb (landsOn (start.setI 0xFF1) 0 14 rc) = false := by
  refine ⟨by decide, by decide, le_refl 15, by unfold Reaches; decide, fun _ _ => ?_⟩
  simp [start, State.setI, State.reset, MachineState.reset, pixelAt]

/-- StoredBytesAreFetched: V0 and V1 stored at `I`, and a jump there. -/
theorem witness_StoredBytesAreFetched :
    0 + 1 ≤ (1 : RegIdx).val ∧ Memory.wf (start.setI 0x300).cfg.font (start.setI 0x300).m.memory = true ∧
    (start.setI 0x300).m.i.toNat + (1 : RegIdx).val ≤ 0xFFF ∧
    ∃ t, exec (.ldMemV 1) (start.setI 0x300) = .next t ∧ (t.setPc 0x300).m.memory = t.m.memory ∧
      (t.setPc 0x300).cfg = t.cfg ∧ (t.setPc 0x300).m.pc.toNat = (start.setI 0x300).m.i.toNat + 0 :=
  ⟨by decide, by decide, by decide, _, rfl, rfl, rfl, by decide⟩

end Sys2Proof.Tests
end

section
/-! SUPPORT. The fields of a word put its encoding together again (30_encoding.md R81): one law per format. -/

namespace Sys2Proof

variable {w : Word} {f k : Nat}

theorem encodeNNN_fields (hf : fieldF w = f) : encodeNNN f (fieldNNN w) = w := by
  apply BitVec.eq_of_toNat_eq
  rw [encodeNNN_toNat (hf ▸ fieldF_lt w)]
  simp only [fieldF, fieldNNN, BitVec.toNat_ofNat] at *; omega

theorem encodeXNN_fields (hf : fieldF w = f) : encodeXNN f (fieldX w) (fieldNN w) = w := by
  apply BitVec.eq_of_toNat_eq
  rw [encodeXNN_toNat (hf ▸ fieldF_lt w), fieldNN_toNat]
  simp only [fieldF, fieldX] at *; omega

/-- The format `XSS`, where the low byte is a sub-selector. -/
theorem encodeXSS_fields {k : Byte} (hf : fieldF w = f) (hk : (fieldNN w).toNat = k.toNat) :
    encodeXNN f (fieldX w) k = w :=
  BitVec.eq_of_toNat_eq hk ▸ encodeXNN_fields hf

theorem encodeXYN_fields (hf : fieldF w = f) (hk : fieldN w = k) : encodeXYN f (fieldX w) (fieldY w) k = w := by
  apply BitVec.eq_of_toNat_eq
  rw [encodeXYN_toNat (hf ▸ fieldF_lt w) (hk ▸ fieldN_lt w)]
  simp only [fieldF, fieldN, fieldX, fieldY] at *; omega

theorem encodeZ_fields (hf : fieldF w = 0) (hk : fieldN w = k) : encodeZ (fieldIgn0 w) k = w := by
  apply BitVec.eq_of_toNat_eq
  rw [encodeZ_toNat (hk ▸ fieldN_lt w)]
  simp only [fieldF, fieldN, fieldIgn0, BitVec.toNat_ofNat] at *; omega

theorem fieldIgn9_toNat : (fieldIgn9 w).toNat = fieldN w := by simp [fieldIgn9, fieldN]

/-! ## The four second-level families -/

variable {i : Instr}

theorem encode_of_decodeFamily0 (hf : fieldF w = 0x0) (h : decodeFamily0 w = .ok i) : i.WellFormed ∧ encode i = w := by
  rcases decodeFamily0_cases w with ⟨hk, hd⟩ | ⟨hk, hd⟩ | ⟨_, hd⟩ <;> rw [hd] at h <;> cases h
  · exact ⟨trivial, encodeZ_fields hf hk⟩
  · exact ⟨trivial, encodeZ_fields hf hk⟩

theorem encode_of_decodeFamily8 (hf : fieldF w = 0x8) (h : decodeFamily8 w = .ok i) : i.WellFormed ∧ encode i = w := by
  rcases decodeFamily8_cases w with
      ⟨hk, hd⟩ | ⟨hk, hd⟩ | ⟨hk, hd⟩ | ⟨hk, hd⟩ | ⟨hk, hd⟩ | ⟨hk, hd⟩ | ⟨_, hd⟩ <;>
    rw [hd] at h <;> cases h <;> exact ⟨trivial, encodeXYN_fields hf hk⟩

theorem encode_of_decodeFamilyE (hf : fieldF w = 0xE) (h : decodeFamilyE w = .ok i) : i.WellFormed ∧ encode i = w := by
  rcases decodeFamilyE_cases w with ⟨hk, hd⟩ | ⟨hk, hd⟩ | ⟨_, hd⟩ <;>
    rw [hd] at h <;> cases h <;> exact ⟨trivial, encodeXSS_fields hf hk⟩

theorem encode_of_decodeFamilyF (hf : fieldF w = 0xF) (h : decodeFamilyF w = .ok i) : i.WellFormed ∧ encode i = w := by
  rcases decodeFamilyF_cases w with
      ⟨hk, hd⟩ | ⟨hk, hd⟩ | ⟨hk, hd⟩ | ⟨hk, hd⟩ | ⟨hk, hd⟩ | ⟨hk, hd⟩ | ⟨hk, hd⟩ | ⟨hk, hd⟩ | ⟨hk, hd⟩ | ⟨_, hd⟩ <;>
    rw [hd] at h <;> cases h <;> exact ⟨trivial, encodeXSS_fields hf hk⟩

/-- Settles O30: along the first level of the decoder, each format's law gives the word back. -/
theorem encodeOfDecodeIsTheWord : Obligations.EncodeOfDecodeIsTheWord := by
  intro w i h
  rcases decodeWord_cases w with
      ⟨hf, hd⟩ | ⟨hf, hd⟩ | ⟨hf, hd⟩ | ⟨hf, hd⟩ | ⟨hf, hd⟩ | ⟨hf, hd⟩ | ⟨hf, hd⟩ | ⟨hf, hd⟩ | ⟨hf, hd⟩ | ⟨hf, hd⟩ |
      ⟨hf, hd⟩ | ⟨hf, hd⟩ | ⟨hf, hd⟩ | ⟨hf, hd⟩ | ⟨hf, hd⟩ | ⟨hf, hd⟩ <;> rw [hd] at h
  · exact encode_of_decodeFamily0 hf h
  · cases h; exact ⟨trivial, encodeNNN_fields hf⟩
  · cases h; exact ⟨trivial, encodeNNN_fields hf⟩
  · cases h; exact ⟨trivial, encodeXNN_fields hf⟩
  · cases h; exact ⟨trivial, encodeXNN_fields hf⟩
  · cases h
  · cases h; exact ⟨trivial, encodeXNN_fields hf⟩
  · cases h; exact ⟨trivial, encodeXNN_fields hf⟩
  · exact encode_of_decodeFamily8 hf h
  · cases h; exact ⟨trivial, encodeXYN_fields hf fieldIgn9_toNat.symm⟩
  · cases h; exact ⟨trivial, encodeNNN_fields hf⟩
  · cases h
  · cases h; exact ⟨trivial, encodeXNN_fields hf⟩
  · cases h
    have hn : fieldN w < 0x10 := fieldN_lt w
    exact ⟨Nat.le_of_lt_succ hn, encodeXYN_fields hf (Nat.mod_eq_of_lt hn).symm⟩
  · exact encode_of_decodeFamilyE hf h
  · exact encode_of_decodeFamilyF hf h

end Sys2Proof
end

section
/-! SUPPORT. What reset leaves (10_state.md R37; 70_reset_and_hazards.md R290). -/

namespace Sys2Proof.Machine

/-- After a reset every byte is one that nothing has written. -/
theorem State.readByte_resetUnit (s : State) (inputs : Inputs) (a : Nat) :
    (s.resetUnit inputs).readByte a = unlisted inputs.font a := rfl

/-- Settles O48: the bytes by the two laws of `unlisted`, the rest by the reset values themselves. -/
theorem resetLeavesTheListedValues : Obligations.ResetLeavesTheListedValues := by
  refine ⟨fun s inputs => ⟨_, rfl, fun a h => ?_, fun a h _ => ?_, fun r => ?_, rfl, rfl, fun j => ?_, rfl, rfl, rfl,
    pixelAt_blank, rfl, rfl, rfl, rfl, rfl, rfl, rfl, rfl⟩, rfl⟩
  · rw [State.readByte_resetUnit, unlisted_of_lt _ h]
  · rw [State.readByte_resetUnit, unlisted_of_ge _ h]
  · exact Vector.getElem_replicate r.isLt
  · exact Vector.getElem_replicate j.isLt

/-- A reset leaves canonical memory, no snapshot and no latched fault. -/
theorem State.resetUnit_inv (s : State) (inputs : Inputs) : (s.resetUnit inputs).Inv where
  memory_wf := reset_memory_wf inputs.font
  snap_wf _ held := nomatch held
  fault_consistent := ⟨rfl, rfl, rfl⟩

/-- Settles O49: the first reset is a reset of some state. -/
theorem resetMeetsTheInvariant : Obligations.ResetMeetsTheInvariant :=
  ⟨State.resetUnit_inv State.reset State.reset.cfg, State.resetUnit_inv⟩

end Sys2Proof.Machine
end

section
/-! SUPPORT. The state an instruction leaves, as one equation: the fault `faultOf` names, or the completed state. -/

namespace Sys2Proof.Machine

/-- `storeRegs` changes memory and nothing else. -/
theorem State.storeRegs_eq (s : State) (a k : Nat) :
    s.storeRegs a k = { s with m := { s.m with memory := (s.storeRegs a k).m.memory } } := by
  induction k with
  | zero => rfl
  | succ k ih => rw [State.storeRegs, ih]; rfl

/-! ## The completed state -/

/-- What an instruction leaves in a state where it raises no fault. With no branch for the faults, and nothing to
prove about `sp` within it, a proof about all instructions has one case for each; `exec_of_faultOf_none` ties it to
`exec`. -/
def completed (i : Instr) (s : State) : State :=
  match i with
  | .cls _ => ((s.setFb (Vector.replicate _ 0)).setDirty true).advance
  | .ret _ => (s.setSp ⟨s.m.sp.val - 1, by omega⟩).setPc (s.m.stack[s.m.sp.val - 1]?.getD 0 + 2)
  | .jp nnn => s.setPc (zextAddr nnn)
  | .call nnn =>
    ((s.setStack ⟨s.m.sp.val % stackDepth, Nat.mod_lt _ (by decide)⟩ s.m.pc).setSp (s.m.sp + 1)).setPc (zextAddr nnn)
  | .seImm x nn => s.skipIf (decide (s.reg x = nn))
  | .sneImm x nn => s.skipIf (decide (s.reg x ≠ nn))
  | .ldImm x nn => (s.setReg x nn).advance
  | .addImm x nn => (s.setReg x (s.reg x + nn)).advance
  | .ldReg x y => (s.setReg x (s.reg y)).advance
  | .andReg x y => (s.setReg x (s.reg x &&& s.reg y)).advance
  | .xorReg x y => (s.setReg x (s.reg x ^^^ s.reg y)).advance
  | .addReg x y =>
    let s1 := s.setReg vf (carryFlag (s.reg x) (s.reg y))
    (s1.setReg x (s1.reg x + s1.reg y)).advance
  | .subReg x y =>
    let s1 := s.setReg vf (notBorrowFlag (s.reg x) (s.reg y))
    (s1.setReg x (s1.reg x - s1.reg y)).advance
  | .shr x _ =>
    let s1 := s.setReg vf (shiftedOutFlag (s.reg x))
    (s1.setReg x (s1.reg x >>> 1)).advance
  | .sneReg x y _ => s.skipIf (decide (s.reg x ≠ s.reg y))
  | .ldI nnn => (s.setI (zextAddr nnn)).advance
  | .rnd x nn => { (s.setReg x (Config.rnd s.draws &&& nn)).advance with draws := s.draws + 1 }
  | .drw x y n =>
    let d := drawPixels s.m.fb (spritePixels (s.reg x).toNat (s.reg y).toNat (s.readBytes (s.dataAddr 0) n))
    (((s.setFb d.fb).setReg vf (collisionFlag d.coll)).dirtyAfterDraw d.setBits d.hits).advance
  | .skp x => s.skipIf (s.keyDown (s.reg x).toNat)
  | .sknp x => s.skipIf (!s.keyDown (s.reg x).toNat)
  | .ldVDt x => (s.setReg x s.m.dt).advance
  | .ldVK x =>
    if s.m.keys = 0 then s.setStatus .wait
    else (s.setReg x (BitVec.ofNat _ (pickKey s.cfg.keywaitPick s.m.keys))).advance
  | .ldDtV x => (s.setDt (s.reg x)).advance
  | .ldStV x => (s.setSt (s.reg x)).advance
  | .addI x =>
    let s1 := s.setReg vf (indexOverflowFlag s.m.i (s.reg x))
    (s1.setI (s1.m.i + zextByte (s1.reg x))).advance
  | .ldF x => (s.setI (zextByte (s.reg x) * BitVec.ofNat _ glyphSize)).advance
  | .ldB x => (s.writeBytes (s.dataAddr 0) (bcdDigits (s.reg x))).advance
  | .ldMemV x => ((s.storeRegs (s.dataAddr 0) (x.val + 1)).legacyIncrement (x.val + 1)).advance
  | .ldVMem x => ((s.loadRegs (s.dataAddr 0) (x.val + 1)).legacyIncrement (x.val + 1)).advance

/-! ### The Machine State of the three that branch or recur -/

@[simp] theorem completed_ldVK_m (x : RegIdx) (s : State) :
    (completed (.ldVK x) s).m =
      { s.m with
        v := if s.m.keys = 0 then s.m.v else s.m.v.set x.val (BitVec.ofNat 8 (pickKey s.cfg.keywaitPick s.m.keys))
        pc := if s.m.keys = 0 then s.m.pc else s.m.pc + 2 } := by
  rw [completed]; split_ifs <;> rfl

@[simp] theorem completed_ldMemV_m (x : RegIdx) (s : State) :
    (completed (.ldMemV x) s).m =
      { s.m with
        memory := (s.storeRegs (s.dataAddr 0) (x.val + 1)).m.memory
        i := if s.cfg.legacyIncrement then s.m.i + BitVec.ofNat 16 (x.val + 1) else s.m.i
        pc := s.m.pc + 2 } := by
  rw [completed, State.storeRegs_eq]; rfl

@[simp] theorem completed_ldVMem_m (x : RegIdx) (s : State) :
    (completed (.ldVMem x) s).m =
      { s.m with
        v := (s.loadRegs (s.dataAddr 0) (x.val + 1)).m.v
        i := if s.cfg.legacyIncrement then s.m.i + BitVec.ofNat 16 (x.val + 1) else s.m.i
        pc := s.m.pc + 2 } := by
  rw [completed, State.loadRegs_eq]; rfl

/-! ## The outcome of an instruction -/

/-- Without a fault, `exec` answers the completed state. -/
theorem exec_of_faultOf_none {i : Instr} {s : State} (h : faultOf i s = none) : exec i s = .next (completed i s) := by
  cases i with
  | ret ign =>
    have hs : 0 < s.m.sp.val := by simpa [faultOf, Fin.pos_iff_ne_zero] using h
    have top : s.m.sp.val - 1 < 16 := by have := s.m.sp.isLt; omega
    simp [exec, execRet, completed, hs, top]
  | call nnn =>
    have hs : s.m.sp.val < 16 := by simpa [faultOf] using h
    have hp : s.m.sp + 1 = ⟨s.m.sp.val + 1, Nat.succ_lt_succ hs⟩ := Fin.ext (Nat.mod_eq_of_lt (Nat.succ_lt_succ hs))
    simp only [exec, execCall, completed, stackDepth, dif_pos hs, Nat.mod_eq_of_lt hs, hp]
  | ldVK x => simp only [exec, execLdVK, completed]; split <;> rfl
  | drw | skp | sknp | ldB | ldMemV | ldVMem => exact if_pos (by simpa [faultOf] using h)
  | _ => rfl

/-- With a fault, `exec` raises it. -/
theorem exec_of_faultOf_some {i : Instr} {s : State} {c : FaultCode} {a : Word} (h : faultOf i s = some (c, a)) :
    exec i s = .next (s.raise c (encode i) a) := by
  rcases exec_outcome i s with ⟨hf, _⟩ | ⟨c', a', hf, hr⟩
  · exact nomatch h.symm.trans hf
  · obtain ⟨rfl, rfl⟩ := Prod.mk.inj (Option.some.inj (h.symm.trans hf))
    exact hr

/-- The next state of an instruction is the completed state or a raised fault. -/
theorem exec_next_cases {i : Instr} {s t : State} (h : exec i s = .next t) :
    (faultOf i s = none ∧ t = completed i s) ∨ ∃ c a, faultOf i s = some (c, a) ∧ t = s.raise c (encode i) a := by
  cases hf : faultOf i s with
  | none => exact .inl ⟨rfl, Host.Outcome.next.inj (h.symm.trans (exec_of_faultOf_none hf))⟩
  | some f => exact .inr ⟨f.1, f.2, rfl, Host.Outcome.next.inj (h.symm.trans (exec_of_faultOf_some hf))⟩

/-- What an instruction makes of Machine State: nothing if it raises a fault, else what the completed state holds. -/
theorem exec_m_cases {i : Instr} {s t : State} (h : exec i s = .next t) : t.m = s.m ∨ t = completed i s := by
  rcases exec_next_cases h with ⟨_, rfl⟩ | ⟨c, a, _, rfl⟩
  · exact .inr rfl
  · exact .inl (s.raise_m c _ a)

/-- What no instruction writes. -/
theorem exec_keeps {i : Instr} {s t : State} (h : exec i s = .next t) :
    t.m.keys = s.m.keys ∧ t.cfg = s.cfg ∧ t.snap = s.snap ∧ t.logWord = s.logWord ∧ t.logPc = s.logPc ∧
      t.response = s.response ∧ t.host = s.host := by
  rcases exec_outcome i s with ⟨_, u, hu, kept⟩ | ⟨c, a, _, hu⟩ <;> obtain rfl := Host.Outcome.next.inj (h.symm.trans hu)
  · exact ⟨kept.keys, kept.cfg, kept.snap, kept.logWord, kept.logPc, kept.response, kept.host⟩
  · exact ⟨rfl, rfl, rfl, rfl, rfl, rfl, rfl⟩

end Sys2Proof.Machine
end

section
/-! SUPPORT. Which instructions write which part of Machine State (10_state.md R22 to R30). -/

namespace Sys2Proof.Machine

open Sys2Proof.Stmt

variable {i : Instr} {s t : State}

/-! ## The general registers (10_state.md R22, R23) -/

/-- A flag in VF and then a result in `v[x]` leave every other register. -/
theorem State.reg_setReg_setReg_of_ne (s : State) {x r : RegIdx} (hr : ¬(r = x ∨ r = 15)) (a b : Byte) :
    ((s.setReg vf a).setReg x b).reg r = s.reg r := by
  obtain ⟨hx, hf⟩ := not_or.1 hr
  rw [State.reg_setReg_of_ne _ (Ne.symm hx), State.reg_setReg_of_ne _ (Ne.symm hf)]

theorem reg_completed_of_not_mayWrite {r : RegIdx} (hr : ¬mayWrite i r) : (completed i s).reg r = s.reg r := by
  cases i with
  | ldImm | addImm | ldReg | andReg | xorReg | rnd | ldVDt => exact s.reg_setReg_of_ne (Ne.symm hr) _
  | ldVK =>
    simp only [completed]
    split
    · rfl
    · exact s.reg_setReg_of_ne (Ne.symm hr) _
  | addReg | subReg | shr => exact s.reg_setReg_setReg_of_ne hr _ _
  | addI | drw => exact s.reg_setReg_of_ne (Ne.symm hr) _
  | ldVMem x =>
    have hx : ¬r.val < x.val + 1 := fun h => hr (Nat.le_of_lt_succ h)
    exact (s.reg_loadRegs _ x.isLt r).trans (if_neg hx)
  | ldMemV => simp [State.reg]
  | _ => rfl

/-- Settles O52: a fault keeps every register, a completed instruction those it may not write. -/
theorem registersHaveOnlyTheirWriters : Obligations.RegistersHaveOnlyTheirWriters := by
  intro i s t r h hne
  by_contra hr
  rcases exec_m_cases h with hm | rfl
  · exact hne (by rw [hm])
  · exact hne (reg_completed_of_not_mayWrite hr)

/-! ## The other state (10_state.md R25 to R29) -/

theorem completed_i_writers (h : (completed i s).m.i ≠ s.m.i) :
    (∃ nnn, i = .ldI nnn) ∨ (∃ x, i = .addI x) ∨ (∃ x, i = .ldF x) ∨
      (s.cfg.legacyIncrement = true ∧ ∃ x, i = .ldMemV x ∨ i = .ldVMem x) := by
  cases i with
  | ldI nnn => exact .inl ⟨nnn, rfl⟩
  | addI x => exact .inr (.inl ⟨x, rfl⟩)
  | ldF x => exact .inr (.inr (.inl ⟨x, rfl⟩))
  | ldMemV x =>
    have legacy : s.cfg.legacyIncrement = true := by by_contra hl; simp [hl] at h
    exact .inr (.inr (.inr ⟨legacy, x, .inl rfl⟩))
  | ldVMem x =>
    have legacy : s.cfg.legacyIncrement = true := by by_contra hl; simp [hl] at h
    exact .inr (.inr (.inr ⟨legacy, x, .inr rfl⟩))
  | ldVK => simp at h
  | _ => exact absurd rfl h

theorem completed_stack_writers (h : (completed i s).m.stack ≠ s.m.stack) : ∃ nnn, i = .call nnn := by
  cases i with
  | call nnn => exact ⟨nnn, rfl⟩
  | ldVK | ldMemV | ldVMem => simp at h
  | _ => exact absurd rfl h

theorem completed_sp_writers (h : (completed i s).m.sp ≠ s.m.sp) : (∃ nnn, i = .call nnn) ∨ ∃ ign, i = .ret ign := by
  cases i with
  | call nnn => exact .inl ⟨nnn, rfl⟩
  | ret ign => exact .inr ⟨ign, rfl⟩
  | ldVK | ldMemV | ldVMem => simp at h
  | _ => exact absurd rfl h

theorem completed_dt_writers (h : (completed i s).m.dt ≠ s.m.dt) :
    ∃ x, i = .ldDtV x ∧ (completed i s).m.dt = s.m.v[x] := by
  cases i with
  | ldDtV x => exact ⟨x, rfl, rfl⟩
  | ldVK | ldMemV | ldVMem => simp at h
  | _ => exact absurd rfl h

theorem completed_st_writers (h : (completed i s).m.st ≠ s.m.st) :
    ∃ x, i = .ldStV x ∧ (completed i s).m.st = s.m.v[x] := by
  cases i with
  | ldStV x => exact ⟨x, rfl, rfl⟩
  | ldVK | ldMemV | ldVMem => simp at h
  | _ => exact absurd rfl h

theorem completed_dirty_writers (h : (completed i s).m.dirty ≠ s.m.dirty) :
    (completed i s).m.dirty = true ∧ ((∃ ign, i = .cls ign) ∨ ∃ x y n, i = .drw x y n) := by
  cases i with
  | cls ign => exact ⟨rfl, .inl ⟨ign, rfl⟩⟩
  | drw x y n =>
    refine ⟨?_, .inr ⟨x, y, n, rfl⟩⟩
    simp only [completed, State.advance_dirty, State.dirtyAfterDraw_dirty] at h ⊢
    split
    · rename_i suppressed
      exact absurd (if_pos suppressed) h
    · rfl
  | ldVK | ldMemV | ldVMem => simp at h
  | _ => exact absurd rfl h

/-- Settles O54: a fault keeps all of Machine State, a completed instruction all that is not its to write. -/
theorem specialStateHasOnlyItsWriters : Obligations.SpecialStateHasOnlyItsWriters := by
  intro i s t h
  have kept := exec_keeps h
  rcases exec_m_cases h with hm | rfl
  · rw [hm] at kept ⊢
    exact ⟨(absurd rfl ·), (absurd rfl ·), (absurd rfl ·), (absurd rfl ·), (absurd rfl ·), (absurd rfl ·), kept⟩
  · exact ⟨completed_i_writers, completed_stack_writers, completed_sp_writers, completed_dt_writers,
      completed_st_writers, completed_dirty_writers, kept⟩

end Sys2Proof.Machine
end

section
/-! SUPPORT. Instructions see Machine State, the configuration and the draws alone (10_state.md R38). -/

namespace Sys2Proof.Machine

/-- What an instruction may see of `s`, in the surroundings of `r`. -/
def State.within (s r : State) : State := { r with m := s.m, cfg := s.cfg, draws := s.draws }

/-- Two states that an instruction cannot tell apart differ in their surroundings alone. -/
theorem State.eq_within {s r : State} (hm : r.m = s.m) (hc : r.cfg = s.cfg) (hd : r.draws = s.draws) :
    r = s.within r := by
  rw [State.within, ← hm, ← hc, ← hd]

variable (s r : State)

/-! ## The operations that recur commute with a change of surroundings -/

theorem State.readBytes_within (a n : Nat) : (s.within r).readBytes a n = s.readBytes a n := by
  induction n generalizing a with
  | zero => rfl
  | succ n ih => rw [State.readBytes, ih]; rfl

theorem State.loadRegs_within (a k : Nat) : (s.within r).loadRegs a k = (s.loadRegs a k).within r := by
  induction k with
  | zero => rfl
  | succ k ih => rw [State.loadRegs, ih]; rfl

theorem State.storeRegs_within (a k : Nat) : (s.within r).storeRegs a k = (s.storeRegs a k).within r := by
  induction k with
  | zero => rfl
  | succ k ih => rw [State.storeRegs, ih]; rfl

/-! ## Every instruction -/

theorem faultOf_within (i : Instr) : faultOf i (s.within r) = faultOf i s := by cases i <;> rfl

theorem completed_within (i : Instr) :
    (completed i (s.within r)).m = (completed i s).m ∧ (completed i (s.within r)).draws = (completed i s).draws := by
  cases i with
  | drw => simp only [completed, State.readBytes_within]; exact ⟨rfl, rfl⟩
  | ldVK =>
    have hk : (s.within r).m.keys = s.m.keys := rfl
    simp only [completed, hk]
    split <;> exact ⟨rfl, rfl⟩
  | ldMemV => simp only [completed, State.storeRegs_within]; exact ⟨rfl, rfl⟩
  | ldVMem => simp only [completed, State.loadRegs_within]; exact ⟨rfl, rfl⟩
  | _ => exact ⟨rfl, rfl⟩

/-- Settles O56: the other state is the first in other surroundings, where the instruction raises the same fault or
completes in the same way. -/
theorem instructionsSeeMachineStateAlone : Obligations.InstructionsSeeMachineStateAlone := by
  intro i s s' t hm hc hd h
  rw [State.eq_within hm hc hd]
  rcases exec_next_cases h with ⟨hf, rfl⟩ | ⟨c, a, hf, rfl⟩
  · obtain ⟨sameM, sameDraws⟩ := completed_within s s' i
    exact ⟨_, exec_of_faultOf_none ((faultOf_within s s' i).trans hf), sameM, sameDraws⟩
  · exact ⟨_, exec_of_faultOf_some ((faultOf_within s s' i).trans hf), rfl, rfl⟩

end Sys2Proof.Machine
end

section
/-! SUPPORT. The fetch (20_memory.md R53). -/

namespace Sys2Proof.Machine

theorem wordOfBytes_toNat (hi lo : Byte) : (wordOfBytes hi lo).toNat = hi.toNat * 256 + lo.toNat := by
  have := hi.isLt; have := lo.isLt
  simp only [wordOfBytes, BitVec.toNat_ofNat]; omega

/-- A fetch out of range ends the step before anything is decoded. -/
theorem issue_of_fetch_out_of_range {s : State} (hf : s.fault.code = .none) (hr : inRange s.m.pc.toNat 2 = false) :
    s.issue = .done (s.raise .fetchOob 0 s.fetchOobAddr) := by
  simp [State.issue, hf, hr]

/-- Settles O35: the word by its arithmetic, the fault by the range check of the fetch. -/
theorem fetchAboveMemoryFaults : Obligations.FetchAboveMemoryFaults := by
  refine ⟨fun s => wordOfBytes_toNat _ _, fun s hg hf hpc => ?_⟩
  have hr : inRange s.afterHost.m.pc.toNat 2 = false := by
    rw [Bool.eq_false_iff, ne_eq, inRange_iff]; simp only [memSize]; omega
  refine ⟨s.afterHost.fetchOobAddr, step_of_done hg (issue_of_fetch_out_of_range hf hr), ?_⟩
  rw [State.fetchOobAddr_toNat _ hr]
  split <;> omega

end Sys2Proof.Machine
end

section
/-! SUPPORT. What an instruction stores in memory, and where (20_memory.md R55, R56). -/

namespace Sys2Proof.Machine

open Sys2Proof.Stmt

/-- The bytes an instruction stores from `I` upwards: the digits of Fx33, the registers of Fx55, for the others none.
`completed_memory` ties it to what the instruction does. -/
def storedBytes (i : Instr) (s : State) : List Byte :=
  match i with
  | .ldB x => bcdDigits (s.reg x)
  | .ldMemV x => s.m.v.toList.take (x.val + 1)
  | _ => []

variable {i : Instr} {s t : State}

theorem length_storedBytes (i : Instr) (s : State) : (storedBytes i s).length = storeCount i := by
  cases i with
  | ldMemV x => simp [storedBytes, storeCount]
  | _ => rfl

/-- The one way an instruction changes memory: its bytes go to `I` and the addresses above it. -/
theorem completed_memory (i : Instr) (s : State) :
    (completed i s).m.memory = (s.writeBytes (s.dataAddr 0) (storedBytes i s)).m.memory := by
  cases i with
  | ldMemV x => rw [completed_ldMemV_m, State.storeRegs_eq_writeBytes _ _ x.isLt]; rfl
  | ldVK | ldVMem => simp [storedBytes, State.writeBytes]
  | _ => rfl

/-- An instruction that raises no fault has room for the bytes it stores. -/
theorem dataInRange_of_faultOf_none (h : faultOf i s = none) : s.dataInRange (storeCount i) = true := by
  cases i with
  | ldB | ldMemV => simpa [faultOf, storeCount] using h
  | _ => rfl

theorem storedBytes_le_memSize (h : faultOf i s = none) (hk : 0 < (storedBytes i s).length) :
    s.dataAddr 0 + (storedBytes i s).length ≤ memSize := by
  rw [length_storedBytes] at hk ⊢
  exact ((inRange_iff _ _).1 (dataInRange_of_faultOf_none h)).resolve_left hk.ne'

/-- The completed state is one the instruction completes in. -/
theorem completes_completed (h : faultOf i s = none) : Completes s (completed i s) := by
  rcases exec_outcome i s with ⟨_, u, hu, kept⟩ | ⟨c, a, hf, _⟩
  · obtain rfl := Host.Outcome.next.inj ((exec_of_faultOf_none h).symm.trans hu)
    exact kept
  · exact nomatch h.symm.trans hf

/-- Every byte reads as after the stores alone. -/
theorem readByte_completed (h : faultOf i s = none) (a : Nat) :
    (completed i s).readByte a = (s.writeBytes (s.dataAddr 0) (storedBytes i s)).readByte a :=
  State.readByte_congr (completed_memory i s)
    ((completes_completed h).cfg.trans (congrArg State.cfg (s.writeBytes_eq _ _)).symm) a

/-- In a canonical memory, each stored byte reads back at its own address. -/
theorem readByte_completed_stored (hf : faultOf i s = none) (hm : Memory.wf s.cfg.font s.m.memory = true) {k : Nat}
    (hk : k < (storedBytes i s).length) : (completed i s).readByte (s.dataAddr k) = (storedBytes i s)[k] := by
  rw [readByte_completed hf, State.readByte_writeBytes s _ _ _ hm (storedBytes_le_memSize hf (Nat.zero_lt_of_lt hk)),
    dif_pos]
  · simp [State.dataAddr]
  · simp only [State.dataAddr]; omega

/-- Settles O53: a fault keeps memory, and a completed instruction every byte outside its stores. -/
theorem memoryHasOnlyItsWriters : Obligations.MemoryHasOnlyItsWriters := by
  intro i s t a h hne
  rcases exec_next_cases h with ⟨hf, rfl⟩ | ⟨c, b, _, rfl⟩
  · have inside : s.dataAddr 0 ≤ a ∧ a < s.dataAddr 0 + (storedBytes i s).length := by
      by_contra outside
      exact hne ((readByte_completed hf a).trans (s.readByte_writeBytes_of_outside _ _ outside))
    have room := storedBytes_le_memSize hf (by omega)
    rw [length_storedBytes] at inside room
    simp only [State.dataAddr, memSize] at inside room ⊢
    exact ⟨a - s.m.i.toNat, by omega, by omega, by omega⟩
  · exact absurd rfl hne

/-- Settles O60: both bytes of the fetch are stored registers. -/
theorem storedBytesAreFetched : Obligations.StoredBytesAreFetched := by
  intro x k s t u hk hm hr h hmem hcfg hpc
  have hf : faultOf (.ldMemV x) s = none := by
    simp only [faultOf, State.dataInRange_iff, memSize, ite_eq_left_iff, not_or]; omega
  obtain rfl := Host.Outcome.next.inj ((exec_of_faultOf_none hf).symm.trans h)
  have stored (j : Nat) (hj : j < x.val + 1) : u.readByte (s.m.i.toNat + j) = s.m.v[j]'(by omega) := by
    have hlen : j < (storedBytes (.ldMemV x) s).length := (length_storedBytes (.ldMemV x) s).symm ▸ hj
    rw [State.readByte_congr hmem hcfg]
    exact (readByte_completed_stored hf hm hlen).trans (by simp [storedBytes])
  rw [wordAtPc, hpc, stored k (by omega), Nat.add_assoc, stored (k + 1) (by omega)]

end Sys2Proof.Machine
end

section
/-! SUPPORT. The invariant through one cycle: the host's part, the part before Execute, the instruction. -/

namespace Sys2Proof.Machine

open Sys2Proof.Laws

variable {i : Instr} {s t : State}

/-! ## The fault latch (60_exceptions.md R241, R242, R244) -/

/-- A latch without a fault says nothing of Machine State. -/
theorem FaultLatch.Consistent.of_none {f : FaultLatch} {m : MachineState} (h : f.Consistent m) (hf : f.code = .none)
    (m' : MachineState) : f.Consistent m' := by
  cases f; cases hf; exact h

/-- A key index above 15 is the value of the register it was read from. -/
theorem keyIndex_cause {x : RegIdx} (h : ¬(s.reg x).toNat < nkeys) :
    FaultCode.keyIndex.Cause (zextByte (s.reg x)) s.m := by
  have hv : (zextByte (s.reg x)).toNat = (s.reg x).toNat := BitVec.toNat_setWidth_of_le (by decide)
  exact ⟨hv ▸ Nat.le_of_not_lt h, x, hv⟩

theorem fetchOob_consistent (h : inRange s.m.pc.toNat 2 = false) :
    (s.raise .fetchOob 0 s.fetchOobAddr).fault.Consistent s.m := by
  refine ⟨rfl, rfl, ?_, s.fetchOobAddr_toNat h⟩
  have hpc : ¬(2 = 0 ∨ s.m.pc.toNat + 2 ≤ memSize) := by rw [← inRange_iff, h]; decide
  simp only [memSize, maxAddr] at *; omega

theorem dataOob_consistent {w : Word} (hw : FaultCode.dataOob.RaisedBy w) :
    (s.raise .dataOob w s.dataOobAddr).fault.Consistent s.m :=
  ⟨rfl, hw, s.dataOobAddr_toNat⟩

/-- The word of a faulting instruction is one that can raise its fault, and the fault's cause is there. -/
theorem faultOf_consistent {c : FaultCode} {a : Word} (h : faultOf i s = some (c, a)) :
    (s.raise c (encode i) a).fault.Consistent s.m := by
  cases i with
  | drw x y n =>
    obtain ⟨_, ⟨⟩⟩ := Option.ite_none_left_eq_some.1 h
    exact dataOob_consistent (.inl (RowMatch.drw x y n).1)
  | ldB x =>
    obtain ⟨_, ⟨⟩⟩ := Option.ite_none_left_eq_some.1 h
    exact dataOob_consistent (.inr (.inl (RowMatch.ldB x).1))
  | ldMemV x =>
    obtain ⟨_, ⟨⟩⟩ := Option.ite_none_left_eq_some.1 h
    exact dataOob_consistent (.inr (.inr (.inl (RowMatch.ldMemV x).1)))
  | ldVMem x =>
    obtain ⟨_, ⟨⟩⟩ := Option.ite_none_left_eq_some.1 h
    exact dataOob_consistent (.inr (.inr (.inr (RowMatch.ldVMem x).1)))
  | call nnn =>
    obtain ⟨full, ⟨⟩⟩ := Option.ite_none_left_eq_some.1 h
    have hsp : s.m.sp.val = 16 := by have := s.m.sp.isLt; simp only [stackDepth] at full; omega
    exact ⟨rfl, (RowMatch.call nnn).1, hsp, by rw [State.spWord, hsp]; rfl⟩
  | ret ign =>
    obtain ⟨empty, ⟨⟩⟩ := Option.ite_none_left_eq_some.1 h
    have hsp : s.m.sp.val = 0 := Nat.eq_zero_of_not_pos empty
    exact ⟨rfl, (RowMatch.ret ign).1, hsp, by rw [State.spWord, hsp]; rfl⟩
  | skp x =>
    obtain ⟨high, ⟨⟩⟩ := Option.ite_none_left_eq_some.1 h
    exact ⟨rfl, .inl (RowMatch.skp x).1, keyIndex_cause high⟩
  | sknp x =>
    obtain ⟨high, ⟨⟩⟩ := Option.ite_none_left_eq_some.1 h
    exact ⟨rfl, .inr (RowMatch.sknp x).1, keyIndex_cause high⟩
  | _ => cases h

/-- A raised fault keeps the invariant if its latch is consistent. -/
theorem State.Inv.raise (inv : s.Inv) {c : FaultCode} {w a : Word} (h : (s.raise c w a).fault.Consistent s.m) :
    (s.raise c w a).Inv :=
  ⟨inv.memory_wf, inv.snap_wf, h⟩

/-! ## The instruction -/

/-- The bytes an instruction stores leave memory canonical (20_memory.md R51). -/
theorem completed_memory_wf (hf : faultOf i s = none) (hm : Memory.wf s.cfg.font s.m.memory = true) :
    Memory.wf s.cfg.font (completed i s).m.memory = true := by
  rw [completed_memory]
  rcases Nat.eq_zero_or_pos (storedBytes i s).length with nothing | something
  · rw [List.length_eq_zero_iff.1 nothing]; exact hm
  · exact s.writeBytes_wf _ _ hm (storedBytes_le_memSize hf something)

/-- An instruction that starts without a latched fault keeps the invariant. -/
theorem State.Inv.exec (inv : s.Inv) (hn : s.fault.code = .none) (h : Machine.exec i s = .next t) : t.Inv := by
  rcases exec_next_cases h with ⟨hf, rfl⟩ | ⟨c, a, hf, rfl⟩
  · have kept := completes_completed hf
    refine ⟨?_, ?_, ?_⟩
    · rw [kept.cfg]; exact completed_memory_wf hf inv.memory_wf
    · rw [kept.cfg, kept.snap]; exact inv.snap_wf
    · rw [kept.fault]; exact inv.fault_consistent.of_none hn _
  · exact inv.raise (faultOf_consistent hf)

/-! ## The host's part (60_exceptions.md R260, R266; 70_reset_and_hazards.md R290) -/

theorem State.Inv.command (inv : s.Inv) (c : HostCommand) : (s.command c).Inv := by
  obtain ⟨memory_wf, snap_wf, consistent⟩ := inv
  cases c with
  | loadWrite a b =>
    simp only [State.command, State.loadWrite]
    split
    · rename_i inMemory
      exact ⟨Memory.wf_write _ inMemory _ _ memory_wf, snap_wf, consistent⟩
    · exact ⟨memory_wf, snap_wf, consistent⟩
  | setKeys | clearDirty => exact ⟨memory_wf, snap_wf, consistent⟩
  | clearFault => exact ⟨memory_wf, snap_wf, rfl, rfl, rfl⟩
  | save => exact ⟨memory_wf, fun saved held => Option.some.inj held ▸ memory_wf, consistent⟩
  | restore =>
    simp only [State.command]
    cases held : s.snap with
    | none => rw [restore_of_none held]; exact ⟨memory_wf, snap_wf, consistent⟩
    | some saved => rw [restore_of_some held]; exact ⟨snap_wf saved held, snap_wf, rfl, rfl, rfl⟩

theorem State.Inv.onTick (inv : s.Inv) : s.onTick.Inv := ⟨inv.memory_wf, inv.snap_wf, inv.fault_consistent⟩

theorem State.Inv.afterHost (inv : s.Inv) : s.afterHost.Inv := by
  have started : State.Inv { s with host := s.host.tail, response := .none } :=
    ⟨inv.memory_wf, inv.snap_wf, inv.fault_consistent⟩
  unfold State.afterHost
  split
  · exact State.resetUnit_inv _ _
  · cases s.cycle.command with
    | none => dsimp only; split; exacts [started.onTick, started]
    | some c => dsimp only; split; exacts [(started.command c).onTick, started.command c]

/-- Settles O50: the host's part keeps the invariant, and then so does every way the step can end. -/
theorem stepKeepsTheInvariant : Obligations.StepKeepsTheInvariant := by
  intro s t inv h
  have ready := inv.afterHost
  cases given : s.stepGiven with
  | false => obtain rfl := Host.Outcome.next.inj ((step_of_not_given given).symm.trans h); exact ready
  | true =>
    rcases issue_cases s.afterHost with ⟨_, hi⟩ | ⟨_, hr, hi⟩ | ⟨_, _, e, _, hi⟩ | ⟨hn, _, i, _, hi⟩
    · obtain rfl := Host.Outcome.next.inj ((step_of_done given hi).symm.trans h)
      exact ⟨ready.memory_wf, ready.snap_wf, ready.fault_consistent⟩
    · obtain rfl := Host.Outcome.next.inj ((step_of_done given hi).symm.trans h)
      exact ready.raise (fetchOob_consistent hr)
    · obtain rfl := Host.Outcome.next.inj ((step_of_done given hi).symm.trans h)
      exact ⟨ready.memory_wf, ready.snap_wf, ready.fault_consistent⟩
    · have started : (s.afterHost.setStatus .ok).Inv := ⟨ready.memory_wf, ready.snap_wf, ready.fault_consistent⟩
      exact started.exec hn ((step_of_execute given hi).symm.trans h)

end Sys2Proof.Machine
end

section
/-! SUPPORT. The fields of an encoded word are the operands it was made of (30_encoding.md R81, R82): one law per field
and format. -/

namespace Sys2Proof

variable {f n : Nat} (x y : RegIdx) (nn : Byte) (nnn : Addr12) (ign : BitVec 8)

/-! ## Format `NNN` -/

@[simp] theorem fieldF_encodeNNN (hf : f < 16) : fieldF (encodeNNN f nnn) = f := by
  have := nnn.isLt
  rw [fieldF, encodeNNN_toNat hf]; omega

@[simp] theorem fieldNNN_encodeNNN (hf : f < 16) : fieldNNN (encodeNNN f nnn) = nnn := by
  apply BitVec.eq_of_toNat_eq
  have := nnn.isLt
  simp only [fieldNNN, encodeNNN_toNat hf, BitVec.toNat_ofNat]; omega

/-! ## Formats `XNN` and `XSS` -/

@[simp] theorem fieldF_encodeXNN (hf : f < 16) : fieldF (encodeXNN f x nn) = f := by
  have := x.isLt; have := nn.isLt
  rw [fieldF, encodeXNN_toNat hf]; omega

@[simp] theorem fieldX_encodeXNN (hf : f < 16) : fieldX (encodeXNN f x nn) = x := by
  apply Fin.ext
  have := x.isLt; have := nn.isLt
  simp only [fieldX, encodeXNN_toNat hf]; omega

@[simp] theorem fieldNN_encodeXNN (hf : f < 16) : fieldNN (encodeXNN f x nn) = nn := by
  apply BitVec.eq_of_toNat_eq
  have := nn.isLt
  rw [fieldNN_toNat, encodeXNN_toNat hf]; omega

/-! ## Formats `XYS`, `XY` and `XYN` -/

@[simp] theorem fieldF_encodeXYN (hf : f < 16) (hn : n < 16) : fieldF (encodeXYN f x y n) = f := by
  have := x.isLt; have := y.isLt
  rw [fieldF, encodeXYN_toNat hf hn]; omega

@[simp] theorem fieldX_encodeXYN (hf : f < 16) (hn : n < 16) : fieldX (encodeXYN f x y n) = x := by
  apply Fin.ext
  have := x.isLt; have := y.isLt
  simp only [fieldX, encodeXYN_toNat hf hn]; omega

@[simp] theorem fieldY_encodeXYN (hf : f < 16) (hn : n < 16) : fieldY (encodeXYN f x y n) = y := by
  apply Fin.ext
  have := y.isLt
  simp only [fieldY, encodeXYN_toNat hf hn]; omega

@[simp] theorem fieldN_encodeXYN (hf : f < 16) (hn : n < 16) : fieldN (encodeXYN f x y n) = n := by
  rw [fieldN, encodeXYN_toNat hf hn]; omega

/-! ## Format `Z` -/

@[simp] theorem fieldF_encodeZ (hn : n < 16) : fieldF (encodeZ ign n) = 0 := by
  have := ign.isLt
  rw [fieldF, encodeZ_toNat hn]; omega

@[simp] theorem fieldIgn0_encodeZ (hn : n < 16) : fieldIgn0 (encodeZ ign n) = ign := by
  apply BitVec.eq_of_toNat_eq
  have := ign.isLt
  simp only [fieldIgn0, encodeZ_toNat hn, BitVec.toNat_ofNat]; omega

@[simp] theorem fieldN_encodeZ (hn : n < 16) : fieldN (encodeZ ign n) = n := by
  rw [fieldN, encodeZ_toNat hn]; omega

/-- The nibble that 9xyk ignores is read back as it was. -/
@[simp] theorem fieldIgn9_encodeXYN (hf : f < 16) (k : BitVec 4) : fieldIgn9 (encodeXYN f x y k.toNat) = k :=
  BitVec.eq_of_toNat_eq (fieldIgn9_toNat.trans (fieldN_encodeXYN x y hf k.isLt))

/-! ## Decoding -/

/-- Settles O29: the decoder takes the branch of the format's family and sub-selector, and reads the operands back. -/
theorem decodeOfEncodeIsTheInstruction : Obligations.DecodeOfEncodeIsTheInstruction := by
  intro i wf
  cases i with
  | jp | call | seImm | sneImm | ldImm | addImm | ldI | rnd => simp [encode, decodeWord]
  | cls | ret => simp [encode, decodeWord, decodeFamily0]
  | ldReg | andReg | xorReg | addReg | subReg | shr => simp [encode, decodeWord, decodeFamily8]
  | sneReg x y ign => simp [encode, decodeWord, ign.isLt]
  | drw x y n =>
    have hn : n < 16 := Nat.lt_succ_of_le wf
    simp [encode, decodeWord, Nat.mod_eq_of_lt hn, hn]
  | skp | sknp => simp [encode, decodeWord, decodeFamilyE]
  | ldVDt | ldVK | ldDtV | ldStV | addI | ldF | ldB | ldMemV | ldVMem => simp [encode, decodeWord, decodeFamilyF]

/-- Settles O28: each word is written out, and the decoder runs. -/
theorem sampleWordsDecode : Obligations.SampleWordsDecode := by
  unfold Obligations.SampleWordsDecode
  decide

end Sys2Proof
end

section
/-! SUPPORT. The rows of the opcode map and the unknown words (30_encoding.md R87, R89). -/

namespace Sys2Proof

open Sys2Proof.Laws

variable {w : Word} {i : Instr} {r r' : OpcodeRow}

/-! ## The unknown words -/

/-- The six families of unknown words of 30_encoding.md R89, by family, low nibble and low byte.
`decodeWord_error_iff` ties it to the decoder. -/
abbrev UnknownFields (f n nn : Nat) : Prop :=
  (f = 0x0 ∧ n ∉ [0x0, 0xE]) ∨ f = 0x5 ∨
  (f = 0x8 ∧ n ∈ [0x1, 0x7, 0x8, 0x9, 0xA, 0xB, 0xC, 0xD, 0xE, 0xF]) ∨ f = 0xB ∨
  (f = 0xE ∧ nn ∉ [0x9E, 0xA1]) ∨
  (f = 0xF ∧ nn ∉ [0x07, 0x0A, 0x15, 0x18, 0x1E, 0x29, 0x33, 0x55, 0x65])

theorem decodeFamily0_error_iff : (∃ e, decodeFamily0 w = .error e) ↔ fieldN w ∉ [0x0, 0xE] := by
  rcases decodeFamily0_cases w with ⟨hn, hd⟩ | ⟨hn, hd⟩ | ⟨hn, hd⟩ <;> simp [hd, hn]

/-- The rule lists the unknown sub-selectors of family 0x8 and not the known ones. -/
theorem decodeFamily8_error_iff :
    (∃ e, decodeFamily8 w = .error e) ↔ fieldN w ∈ [0x1, 0x7, 0x8, 0x9, 0xA, 0xB, 0xC, 0xD, 0xE, 0xF] := by
  have complement : ∀ n < 16, n ∈ [0x1, 0x7, 0x8, 0x9, 0xA, 0xB, 0xC, 0xD, 0xE, 0xF] ↔
      n ∉ [0x0, 0x2, 0x3, 0x4, 0x5, 0x6] := by decide
  rw [complement _ (fieldN_lt w)]
  rcases decodeFamily8_cases w with
      ⟨hn, hd⟩ | ⟨hn, hd⟩ | ⟨hn, hd⟩ | ⟨hn, hd⟩ | ⟨hn, hd⟩ | ⟨hn, hd⟩ | ⟨hn, hd⟩ <;> simp [hd, hn]

theorem decodeFamilyE_error_iff : (∃ e, decodeFamilyE w = .error e) ↔ (fieldNN w).toNat ∉ [0x9E, 0xA1] := by
  rcases decodeFamilyE_cases w with ⟨hk, hd⟩ | ⟨hk, hd⟩ | ⟨hk, hd⟩ <;> simp [hd, hk]

theorem decodeFamilyF_error_iff : (∃ e, decodeFamilyF w = .error e) ↔
    (fieldNN w).toNat ∉ [0x07, 0x0A, 0x15, 0x18, 0x1E, 0x29, 0x33, 0x55, 0x65] := by
  rcases decodeFamilyF_cases w with
      ⟨hk, hd⟩ | ⟨hk, hd⟩ | ⟨hk, hd⟩ | ⟨hk, hd⟩ | ⟨hk, hd⟩ | ⟨hk, hd⟩ | ⟨hk, hd⟩ | ⟨hk, hd⟩ | ⟨hk, hd⟩ | ⟨hk, hd⟩ <;>
    simp [hd, hk]

/-- The decoder rejects exactly the six families. -/
theorem decodeWord_error_iff (w : Word) :
    (∃ e, decodeWord w = .error e) ↔ UnknownFields (fieldF w) (fieldN w) (fieldNN w).toNat := by
  rcases decodeWord_cases w with
      ⟨hf, hd⟩ | ⟨hf, hd⟩ | ⟨hf, hd⟩ | ⟨hf, hd⟩ | ⟨hf, hd⟩ | ⟨hf, hd⟩ | ⟨hf, hd⟩ | ⟨hf, hd⟩ | ⟨hf, hd⟩ | ⟨hf, hd⟩ |
      ⟨hf, hd⟩ | ⟨hf, hd⟩ | ⟨hf, hd⟩ | ⟨hf, hd⟩ | ⟨hf, hd⟩ | ⟨hf, hd⟩ <;>
    simp only [hd, hf, UnknownFields, decodeFamily0_error_iff, decodeFamily8_error_iff, decodeFamilyE_error_iff,
      decodeFamilyF_error_iff] <;> simp

/-! ## The rows -/

theorem and_F000_eq_iff {p : Word} : w &&& 0xF000 = p ↔ fieldF w * 0x1000 = p.toNat := by
  rw [← BitVec.toNat_inj, and_F000_toNat, fieldF]

theorem and_F00F_eq_iff {p : Word} : w &&& 0xF00F = p ↔ fieldF w * 0x1000 + fieldN w = p.toNat := by
  rw [← BitVec.toNat_inj, and_F00F_toNat, fieldF, fieldN]

theorem and_F0FF_eq_iff {p : Word} : w &&& 0xF0FF = p ↔ fieldF w * 0x1000 + (fieldNN w).toNat = p.toNat := by
  rw [← BitVec.toNat_inj, and_F0FF_toNat, fieldF, fieldNN_toNat]

/-- The word of every instruction is selected by its own row. -/
theorem rowMatch (i : Instr) : RowMatch.Statement i := by
  open RowMatch in
  cases i
  exacts [cls _, ret _, jp _, call _, seImm _ _, sneImm _ _, ldImm _ _, addImm _ _, ldReg _ _, andReg _ _, xorReg _ _,
    addReg _ _, subReg _ _, shr _ _, sneReg _ _ _, ldI _, rnd _ _, drw _ _ _, skp _, sknp _, ldVDt _, ldVK _, ldDtV _,
    ldStV _, addI _, ldF _, ldB _, ldMemV _, ldVMem _]

/-- A word that decodes is selected by the row of its instruction. -/
theorem row_of_decodeWord_ok (h : decodeWord w = .ok i) : w &&& i.row.mask = i.row.pattern ∧ i.row ∈ opcodeRows := by
  obtain ⟨_, rfl⟩ := encodeOfDecodeIsTheWord w i h
  exact rowMatch i

/-- No row selects a word of the six families: under the row's mask, family and sub-selector are not the pattern's. -/
theorem no_row_of_decodeWord_error (h : ∃ e, decodeWord w = .error e) :
    ∀ r ∈ opcodeRows, w &&& r.mask ≠ r.pattern := by
  have hn := fieldN_lt w
  have hnn := (fieldNN w).isLt
  rw [decodeWord_error_iff] at h
  simp only [opcodeRows, List.forall_mem_cons, ne_eq, and_F000_eq_iff, and_F00F_eq_iff, and_F0FF_eq_iff]
  simp only [UnknownFields, List.mem_cons, List.not_mem_nil, or_false, not_or, false_implies, implies_true, and_true,
    BitVec.reduceToNat] at h ⊢
  omega

/-- Two rows that agree where both masks look are one row. -/
theorem opcodeRows_disjoint : ∀ r ∈ opcodeRows, ∀ r' ∈ opcodeRows,
    r.pattern &&& r'.mask = r'.pattern &&& r.mask → r = r' := by decide

theorem row_unique (hr : r ∈ opcodeRows) (hr' : r' ∈ opcodeRows) (h : w &&& r.mask = r.pattern)
    (h' : w &&& r'.mask = r'.pattern) : r = r' := by
  apply opcodeRows_disjoint r hr r' hr'
  rw [← h, ← h', BitVec.and_assoc, BitVec.and_assoc, BitVec.and_comm r.mask]

/-- A row selects exactly the words of its instruction: a selected word is none of the unknown ones, so it decodes, and
the row of what it decodes to is the only one that selects it. -/
theorem row_selects_iff (hr : r ∈ opcodeRows) : w &&& r.mask = r.pattern ↔ ∃ i, decodeWord w = .ok i ∧ i.row = r := by
  constructor
  · intro h
    cases hd : decodeWord w with
    | error e => exact absurd h (no_row_of_decodeWord_error ⟨e, hd⟩ r hr)
    | ok i =>
      obtain ⟨selected, listed⟩ := row_of_decodeWord_ok hd
      exact ⟨i, rfl, row_unique listed hr selected h⟩
  · rintro ⟨i, hd, rfl⟩
    exact (row_of_decodeWord_ok hd).1

theorem decodeWord_error_of_no_row (h : ∀ r ∈ opcodeRows, w &&& r.mask ≠ r.pattern) :
    ∃ e, decodeWord w = .error e := by
  cases hd : decodeWord w with
  | error e => exact ⟨e, rfl⟩
  | ok i =>
    obtain ⟨selected, listed⟩ := row_of_decodeWord_ok hd
    exact absurd selected (h i.row listed)

/-- Settles O31: the table as it is written, then one law of the rows for each clause. -/
theorem opcodeMapSelectsOneRow : Obligations.OpcodeMapSelectsOneRow :=
  ⟨rfl, rfl, fun _ _ => row_selects_iff, fun _ _ hr _ => row_unique hr, fun _ =>
    ⟨decodeWord_error_of_no_row, no_row_of_decodeWord_error⟩⟩

end Sys2Proof
end

section
/-! SUPPORT. The step on a word that can be fetched (30_encoding.md R83): it executes, or it only logs. -/

namespace Sys2Proof.Machine

open Sys2Proof.Stmt

variable {i : Instr} {e : DecodeError} {s : State}

theorem wordAtPc_eq (s : State) : wordAtPc s = s.fetchedWord := (wordOfBytes_eq_append _ _).symm

theorem inRange_of_ready (h : Ready s) : inRange s.m.pc.toNat 2 = true := by
  obtain ⟨_, hpc⟩ := h
  rw [inRange_iff]; simp only [memSize]; omega

theorem issue_of_decodeWord_ok (hs : Ready s) (h : decodeWord (wordAtPc s) = .ok i) :
    s.issue = .execute i (s.setStatus .ok) := by
  have noFault : s.fault.code = .none := hs.1
  rw [wordAtPc_eq] at h
  simp [State.issue, noFault, inRange_of_ready hs, h]

theorem issue_of_decodeWord_error (hs : Ready s) (h : decodeWord (wordAtPc s) = .error e) :
    s.issue = .done (s.logUnknown (wordAtPc s)) := by
  have noFault : s.fault.code = .none := hs.1
  rw [wordAtPc_eq] at h ⊢
  simp [State.issue, noFault, inRange_of_ready hs, h]

/-- A cycle with a step on an unknown word (46_unknown.md R220). -/
theorem step_of_decodeWord_error (hg : s.stepGiven = true) (hs : Ready s.afterHost)
    (h : ∃ e, decodeWord (wordAtPc s.afterHost) = .error e) :
    step s = .next (s.afterHost.logUnknown (wordAtPc s.afterHost)) := by
  obtain ⟨e, he⟩ := h
  exact step_of_done hg (issue_of_decodeWord_error hs he)

/-- Settles O33: the part before Execute hands the decoded instruction on, whatever the host did in the cycle. -/
theorem stepRunsTheDecodedInstruction : Obligations.StepRunsTheDecodedInstruction := by
  refine ⟨fun s i hg hs h => step_of_execute hg (issue_of_decodeWord_ok hs h), fun s => step_of_not_given,
    fun s i hh hs h => ?_⟩
  have ha := afterHost_of_nil hh
  have hi : s.afterHost.issue = .execute i (s.afterHost.setStatus .ok) := by
    rw [ha]; exact issue_of_decodeWord_ok hs h
  rw [step_of_execute (stepGiven_of_nil hh) hi, ha]; rfl

end Sys2Proof.Machine
end

section
/-! SUPPORT. How many words are unknown (30_encoding.md R89): the count of a family is 16 times that of its low bytes. -/

namespace Sys2Proof

open Sys2Proof.Machine

variable {w : Word} {f x kk : Nat}

theorem fieldN_eq_fieldNN_mod (w : Word) : fieldN w = (fieldNN w).toNat % 16 := by
  rw [fieldNN_toNat, fieldN]; omega

theorem not_isOk_decodeWord_iff : (!(decodeWord w).isOk) = true ↔ ∃ e, decodeWord w = .error e := by
  cases decodeWord w <;> simp [Except.isOk, Except.toBool]

/-- Whether a word is unknown does not depend on its second nibble. -/
theorem not_isOk_decodeWord_fields_iff (hf : f < 16) (hx : x < 16) (hk : kk < 256) :
    (!(decodeWord (BitVec.ofNat 16 (f * 0x1000 + x * 0x100 + kk))).isOk) = true ↔ UnknownFields f (kk % 16) kk := by
  have hkk : (BitVec.ofNat 8 kk).toNat = kk := Nat.mod_eq_of_lt hk
  have hw : BitVec.ofNat 16 (f * 0x1000 + x * 0x100 + kk) = encodeXNN f ⟨x, hx⟩ (BitVec.ofNat 8 kk) := by
    rw [encodeXNN, hkk]
  rw [hw, not_isOk_decodeWord_iff, decodeWord_error_iff, fieldN_eq_fieldNN_mod, fieldF_encodeXNN _ _ hf,
    fieldNN_encodeXNN _ _ hf, hkk]

/-- A count below `m * k`, block by block. -/
theorem countP_range_mul (p : Nat → Bool) (m k : Nat) :
    (List.range (m * k)).countP p = ((List.range m).map fun y => (List.range k).countP fun n => p (y * k + n)).sum := by
  induction m with
  | zero => simp
  | succ m ih => simp [Nat.succ_mul, List.range_add, List.range_succ, ih, List.countP_map, Function.comp_def]

/-- How many low bytes make a word of family `f` unknown. -/
def unknownLowBytes (f : Nat) : Nat := (List.range 256).countP fun kk => decide (UnknownFields f (kk % 16) kk)

/-- The count, high nibble by high nibble, which keeps the computation shallow. -/
theorem unknownLowBytes_eq : (List.range 16).map unknownLowBytes =
    [224, 0, 0, 0, 0, 256, 0, 0, 160, 0, 0, 256, 0, 0, 254, 247] := by
  calc (List.range 16).map unknownLowBytes
      = (List.range 16).map fun f => ((List.range 16).map fun y => (List.range 16).countP fun n =>
          decide (UnknownFields f ((y * 16 + n) % 16) (y * 16 + n))).sum :=
        List.map_congr_left fun f _ => countP_range_mul (fun kk => decide (UnknownFields f (kk % 16) kk)) 16 16
    _ = _ := by decide

theorem unknownCount_eq (hf : f < 16) :
    ((List.range 16).map fun x => (List.range 256).countP fun kk =>
      !(decodeWord (BitVec.ofNat 16 (f * 0x1000 + x * 0x100 + kk))).isOk).sum = 16 * unknownLowBytes f := by
  have each : ∀ x ∈ List.range 16, ((List.range 256).countP fun kk =>
      !(decodeWord (BitVec.ofNat 16 (f * 0x1000 + x * 0x100 + kk))).isOk) = unknownLowBytes f := fun x hx =>
    List.countP_congr fun kk hk => by
      rw [not_isOk_decodeWord_fields_iff hf (List.mem_range.1 hx) (List.mem_range.1 hk), decide_eq_true_iff]
  rw [List.map_congr_left each, List.map_const', List.sum_replicate, List.length_range, smul_eq_mul]

/-! ## The rule's fields, which are slices of the word -/

theorem toNat_extractLsb'_eq_fieldF (w : Word) : (w.extractLsb' 12 4).toNat = fieldF w := by
  have := w.isLt
  simp only [BitVec.extractLsb'_toNat, Nat.shiftRight_eq_div_pow, fieldF]; omega

theorem toNat_extractLsb'_eq_fieldN (w : Word) : (w.extractLsb' 0 4).toNat = fieldN w := by simp [fieldN]

theorem toNat_extractLsb'_eq_fieldNN (w : Word) : (w.extractLsb' 0 8).toNat = (fieldNN w).toNat := by
  simp [fieldNN_toNat]

/-- Settles O32: the families are those the decoder rejects, each is counted over its low bytes, and a step on such a
word only logs it. -/
theorem unknownWordsAreTheListedOnes : Obligations.UnknownWordsAreTheListedOnes := by
  refine ⟨fun w => ?_, ?_, by decide, fun s hg hs h => ⟨_, step_of_decodeWord_error hg hs h, rfl, rfl⟩⟩
  · simp only [toNat_extractLsb'_eq_fieldF, toNat_extractLsb'_eq_fieldN, toNat_extractLsb'_eq_fieldNN]
    exact decodeWord_error_iff w
  · calc _ = (List.range 16).map fun f => 16 * unknownLowBytes f :=
          List.map_congr_left fun f hf => unknownCount_eq (List.mem_range.1 hf)
      _ = ((List.range 16).map unknownLowBytes).map (16 * ·) := List.map_map.symm
      _ = _ := by rw [unknownLowBytes_eq]; rfl

end Sys2Proof
end

section
/-! SUPPORT. How every instruction moves `pc` (30_encoding.md R84). -/

namespace Sys2Proof.Machine

open Sys2Proof.Stmt

variable {i : Instr} {s : State}

/-- A completed instruction moves `pc` as its class says. -/
theorem pc_completed (i : Instr) (s : State) : (completed i s).m.pc = nextPc i s := by
  cases i with
  | seImm | sneImm | sneReg | skp | sknp =>
    simp only [completed, nextPc, State.skipIf_pc, State.reg, State.keyDown]
    split_ifs <;> simp_all
  | ldVK | ldMemV | ldVMem => simp [nextPc]
  | ldB x => rw [completed, State.writeBytes_eq]; rfl
  | _ => rfl

/-- Only a fault leaves the status FAULT in a state that was OK. -/
theorem status_completed_ne_fault (hf : faultOf i s = none) (hs : s.status = .ok) :
    (completed i s).status ≠ .fault := by
  rcases (completes_completed hf).status with h | h
  · simp [h, hs]
  · simp [h]

/-- Settles O51: a fault leaves Machine State, a completed instruction moves `pc` by its class, and an unknown word is
only logged. -/
theorem pcMovesByClass : Obligations.PcMovesByClass := by
  refine ⟨fun i s t hs h => ?_, fun s t hg hr he h => ?_⟩
  · rcases exec_next_cases h with ⟨hf, rfl⟩ | ⟨c, a, _, rfl⟩
    · rw [if_neg (status_completed_ne_fault hf hs), pc_completed]
    · rfl
  · obtain rfl := Host.Outcome.next.inj ((step_of_decodeWord_error hg hr he).symm.trans h)
    rfl

end Sys2Proof.Machine
end

section
/-! SUPPORT. The encoding line of an instruction's rule, and a fault as its rule states it (30_encoding.md R87;
60_exceptions.md R242). -/

namespace Sys2Proof

open Sys2Proof.Machine Sys2Proof.Stmt

/-! ## The rule's operands, which are slices of the word (30_encoding.md R81) -/

theorem xOf_eq_fieldX (w : Word) : xOf w = fieldX w := by
  apply Fin.ext
  simp only [xOf, fieldX, BitVec.extractLsb'_toNat, Nat.shiftRight_eq_div_pow, Nat.reducePow]

theorem yOf_eq_fieldY (w : Word) : yOf w = fieldY w := by
  apply Fin.ext
  simp only [yOf, fieldY, BitVec.extractLsb'_toNat, Nat.shiftRight_eq_div_pow, Nat.reducePow]

theorem extractLsb'_eq_fieldIgn0 (w : Word) : w.extractLsb' 4 8 = fieldIgn0 w := by
  apply BitVec.eq_of_toNat_eq
  simp [fieldIgn0, Nat.shiftRight_eq_div_pow]

/-! ## Selection -/

/-- A row selects for its instruction if its words decode to it: a word that decodes is selected by its own row. -/
theorem selects_of_row {r : OpcodeRow} {mk : Word → Instr} (hrow : ∀ w, (mk w).row = r)
    (hdec : ∀ w, w &&& r.mask = r.pattern → decodeWord w = .ok (mk w)) : Selects r.pattern r.mask mk :=
  fun w => ⟨fun h => hrow w ▸ (row_of_decodeWord_ok h).1, hdec w⟩

theorem selects_cls : Selects 0x0000 0xF00F (fun w => .cls (w.extractLsb' 4 8)) := by
  refine selects_of_row (r := (Instr.cls 0).row) (fun _ => rfl) fun w selected => ?_
  have fields : fieldF w * 0x1000 + fieldN w = 0 := and_F00F_eq_iff.1 selected
  have hf : fieldF w = 0 := by omega
  have hk : fieldN w = 0 := by omega
  simp [decodeWord, decodeFamily0, hf, hk, extractLsb'_eq_fieldIgn0]

theorem selects_drw : Selects 0xD000 0xF000 (fun w => .drw (xOf w) (yOf w) (w.extractLsb' 0 4).toNat) := by
  refine selects_of_row (r := (Instr.drw 0 0 0).row) (fun _ => rfl) fun w selected => ?_
  have hf : fieldF w = 0xD := Nat.eq_of_mul_eq_mul_right (by decide) (and_F000_eq_iff.1 selected)
  simp only [decodeWord, hf, xOf_eq_fieldX, yOf_eq_fieldY, toNat_extractLsb'_eq_fieldN]

/-! ## Faults and flags as the statements write them -/

/-- An instruction raises the fault `faultOf` names. -/
theorem raises_of_faultOf {i : Instr} {s : State} {c : FaultCode} {a : Word} (h : faultOf i s = some (c, a))
    (hc : c ≠ .fetchOob) : Raises i s c a.toNat :=
  ⟨a, rfl, by rw [exec_of_faultOf_some h, State.raise_eq, if_neg hc]⟩

theorem reaches_iff (s : State) (n : Nat) : Reaches s n ↔ s.dataInRange n = true := by
  rw [State.dataInRange_iff, Reaches]; simp only [memSize]; omega

/-- A register write writes one register. -/
theorem writesOne_setReg (s : State) (x : RegIdx) (b : Byte) : WritesOne s.m.v (s.setReg x b).m.v x b.toNat :=
  ⟨congrArg _ (s.reg_setReg_self x b), fun _ hr => s.reg_setReg_of_ne hr.symm b⟩

theorem flagByte_toNat (c : Bool) : (flagByte c).toNat = bit (c = true) := by cases c <;> rfl

theorem bit_congr {p q : Prop} [Decidable p] [Decidable q] (h : p ↔ q) : bit p = bit q := if_congr h rfl rfl

end Sys2Proof
end

section
/-! SUPPORT. What CLS and DRW do to the display (40_display.md R120 to R122): a sprite is its set source bits. -/

namespace Sys2Proof.Machine

open Sys2Proof.Stmt

variable {s : State} {x y : RegIdx} {n : Nat}

/-- Settles O1: the blank grid, with the words of the row of CLS. -/
theorem clsClearsTheDisplay : Obligations.ClsClearsTheDisplay :=
  ⟨selects_cls, fun _ _ => ⟨_, rfl, pixelAt_blank⟩⟩

/-! ## The sprite -/

/-- The pixels of a sprite, row by row. -/
theorem spritePixels_readBytes (s : State) (x0 y0 a n : Nat) :
    spritePixels x0 y0 (s.readBytes a n) =
      (List.range n).flatMap fun r => spriteRow x0 (y0 + r) (s.readByte (a + r)) := by
  induction n generalizing y0 a with
  | zero => rfl
  | succ n ih =>
    simp only [State.readBytes, spritePixels, ih, List.range_succ_eq_map, List.flatMap_cons, List.flatMap_map,
      Nat.add_zero, Nat.succ_eq_add_one, Nat.add_assoc, Nat.add_comm 1]

/-- The pixels a sprite addresses are the places its set source bits land on, in order. -/
theorem spritePixels_eq_map_landsOn (s : State) (x y : RegIdx) (n : Nat) :
    spritePixels (s.reg x).toNat (s.reg y).toNat (s.readBytes (s.dataAddr 0) n) =
      (sourceBits s n).map (landsOn s x y) := by
  simp only [spritePixels_readBytes, sourceBits, List.filter_flatMap, List.map_flatMap]
  congr 1
  funext r
  rw [← List.filterMap_eq_map', List.filterMap_filter, List.filterMap_map]
  rfl

/-- A source bit's row and column are below the size of the sprite. -/
theorem lt_of_mem_sourceBits {rc : Nat × Nat} (h : rc ∈ sourceBits s n) : rc.1 < n ∧ rc.2 < 8 := by
  obtain ⟨inSprite, _⟩ := List.mem_filter.1 h
  simpa using List.mem_product.1 inSprite

theorem nodup_sourceBits (s : State) (n : Nat) : (sourceBits s n).Nodup :=
  (List.nodup_range.product List.nodup_range).filter _

/-- A sprite of up to 15 rows is smaller than the grid, so no two of its source bits land on one pixel. -/
theorem nodup_map_landsOn (hn : n ≤ 15) : ((sourceBits s n).map (landsOn s x y)).Nodup := by
  refine (nodup_sourceBits s n).map_on fun a ha b hb h => ?_
  obtain ⟨ha1, ha2⟩ := lt_of_mem_sourceBits ha
  obtain ⟨hb1, hb2⟩ := lt_of_mem_sourceBits hb
  simp only [landsOn, Prod.mk.injEq, Fin.mk.injEq] at h
  exact Prod.ext (by omega) (by omega)

/-! ## The draw -/

/-- Drawing pixels that are all different: each is flipped once, and the hits are those that were set before. -/
theorem drawPixels_spec (fb : Framebuffer) {ps : List Pixel} (hn : ps.Nodup) :
    (∀ p, pixelAt (drawPixels fb ps).fb p = (pixelAt fb p ^^ decide (p ∈ ps))) ∧
      (drawPixels fb ps).hits = ps.countP (pixelAt fb) ∧ (drawPixels fb ps).coll = ps.any (pixelAt fb) := by
  simpa [drawPixels] using foldl_plotPixel_spec ⟨fb, false, 0, 0⟩ ps hn

/-- What DRW has accumulated when the whole sprite is drawn. `completed_drw` ties it to the instruction. -/
def drawing (s : State) (x y : RegIdx) (n : Nat) : Drawing :=
  drawPixels s.m.fb ((sourceBits s n).map (landsOn s x y))

theorem completed_drw (s : State) (x y : RegIdx) (n : Nat) :
    completed (.drw x y n) s =
      { s with m := { s.m with
        fb := (drawing s x y n).fb
        v := (s.setReg vf (collisionFlag (drawing s x y n).coll)).m.v
        dirty := (s.dirtyAfterDraw (drawing s x y n).setBits (drawing s x y n).hits).m.dirty
        pc := s.m.pc + 2 } } := by
  rw [drawing, ← spritePixels_eq_map_landsOn]; rfl

theorem pixelAt_drawing (hn : n ≤ 15) (p : Pixel) :
    pixelAt (drawing s x y n).fb p = (pixelAt s.m.fb p ^^ decide (p ∈ (sourceBits s n).map (landsOn s x y))) :=
  (drawPixels_spec _ (nodup_map_landsOn hn)).1 p

theorem drawing_coll_iff (hn : n ≤ 15) :
    (drawing s x y n).coll = true ↔ ∃ rc ∈ sourceBits s n, pixelAt s.m.fb (landsOn s x y rc) = true := by
  obtain ⟨_, _, hcoll⟩ := drawPixels_spec s.m.fb (nodup_map_landsOn (s := s) (x := x) (y := y) hn)
  simp [drawing, hcoll]

theorem drawing_hits (hn : n ≤ 15) :
    (drawing s x y n).hits = (sourceBits s n).countP fun rc => pixelAt s.m.fb (landsOn s x y rc) := by
  obtain ⟨_, hhits, _⟩ := drawPixels_spec s.m.fb (nodup_map_landsOn (s := s) (x := x) (y := y) hn)
  exact hhits.trans List.countP_map

theorem drawing_setBits (s : State) (x y : RegIdx) (n : Nat) : (drawing s x y n).setBits = (sourceBits s n).length := by
  rw [drawing, drawPixels_setBits, List.length_map]

/-- Settles O2: in range by the accumulated drawing, part by part; out of range by the one fault of DRW. -/
theorem drwDrawsASprite : Obligations.DrwDrawsASprite := by
  refine ⟨selects_drw, fun x y n s hn => ⟨fun reaches => ?_, fun beyond => ?_⟩⟩
  · have noFault : faultOf (.drw x y n) s = none := if_pos ((reaches_iff s n).1 reaches)
    refine ⟨_, _, _, (exec_of_faultOf_none noFault).trans (congrArg _ (completed_drw s x y n)), pixelAt_drawing hn,
      ?_, ?_⟩
    · rw [← bit_congr (drawing_coll_iff hn), ← flagByte_toNat]
      exact writesOne_setReg s 15 _
    · rw [State.dirtyAfterDraw_dirty, drawing_setBits, drawing_hits hn]
      refine if_congr ?_ rfl rfl
      simp [and_comm]
  · have fault : faultOf (.drw x y n) s = some (.dataOob, s.dataOobAddr) :=
      if_neg (mt (reaches_iff s n).2 beyond)
    exact s.dataOobAddr_toNat ▸ raises_of_faultOf fault (by decide)

/-! ## Two draws -/

/-- Settles O59: the second draw flips the same pixels back, and meets every pixel that the first one set. -/
theorem drawingTwiceRestoresThePixels : Obligations.DrawingTwiceRestoresThePixels := by
  intro x y n s hx hy hn reaches
  obtain ⟨fb, v, dirty, ht, hfb, ⟨flag, others⟩, _⟩ := (drwDrawsASprite.2 x y n s hn).1 reaches
  let t : State := { s with m := { s.m with fb := fb, v := v, dirty := dirty, pc := s.m.pc + 2 } }
  obtain ⟨fb', v', dirty', hu, hfb', ⟨flag', _⟩, _⟩ := (drwDrawsASprite.2 x y n t hn).1 reaches
  have sameBits : sourceBits t n = sourceBits s n := rfl
  have samePlaces : landsOn t x y = landsOn s x y := by
    funext rc
    simp only [landsOn, t, others x hx, others y hy]
  rw [sameBits, samePlaces] at hfb' flag'
  refine ⟨t, _, ht, hu, framebuffer_ext fun p => ?_, fun blank => ⟨?_, ?_⟩⟩
  · rw [hfb', hfb, Bool.xor_assoc, Bool.xor_self, Bool.xor_false]
  · have noHit : ¬∃ rc ∈ sourceBits s n, pixelAt s.m.fb (landsOn s x y rc) = true := by
      rintro ⟨rc, hrc, hit⟩; simp [blank rc hrc] at hit
    exact BitVec.eq_of_toNat_eq (flag.trans (if_neg noHit))
  · have allSet : ∀ rc ∈ sourceBits s n, pixelAt fb (landsOn s x y rc) = true := fun rc hrc => by
      rw [hfb, blank rc hrc, decide_eq_true (List.mem_map_of_mem hrc)]; rfl
    refine flag'.trans (bit_congr ⟨fun ⟨rc, hrc, _⟩ => List.ne_nil_of_mem hrc, fun nonempty => ?_⟩)
    obtain ⟨rc, hrc⟩ := List.exists_mem_of_ne_nil _ nonempty
    exact ⟨rc, hrc, allSet rc hrc⟩

end Sys2Proof.Machine
end

section
/-! SUPPORT. Who writes the pixels (40_display.md R123): in the host's part of a cycle, and in the step. -/

namespace Sys2Proof.Machine

open Sys2Proof.Stmt

variable {i : Instr} {s t : State}

/-! ## The fb output -/

/-- The place that coordinates within the grid address is their own. -/
theorem wrapPixel_of_lt (y : Fin 32) (x : Fin 64) : wrapPixel x.val y.val = (y, x) :=
  Prod.ext (Fin.ext (Nat.mod_eq_of_lt y.isLt)) (Fin.ext (Nat.mod_eq_of_lt x.isLt))

theorem fbOut_eq_pixelAt (s : State) (y : Fin 32) (x : Fin 64) :
    s.fbOut ⟨y.val * 64 + x.val, by omega⟩ = pixelAt s.m.fb (y, x) := by
  have column : (y.val * 64 + x.val) % 64 = x.val := by omega
  have row : (y.val * 64 + x.val) / 64 = y.val := by omega
  simp only [State.fbOut, fbW, column, row, wrapPixel_of_lt]

/-! ## The host's part -/

/-- Of the host commands, only the RESTORE of a held snapshot writes pixels. -/
theorem command_fb_writers {c : HostCommand} (h : (s.command c).m.fb ≠ s.m.fb) :
    c = .restore ∧ s.snap.isSome = true := by
  cases c with
  | loadWrite a b =>
    simp only [State.command, State.loadWrite] at h
    split at h <;> exact absurd rfl h
  | restore =>
    cases held : s.snap with
    | none => exact absurd (congrArg (·.m.fb) (restore_of_none held)) h
    | some saved => exact ⟨rfl, rfl⟩
  | _ => exact absurd rfl h

/-- The state after the host command of a cycle without a reset, before the tick; `afterHost_of_no_reset` ties it to the
host's part of the cycle. -/
def State.told (s : State) : State :=
  let untold : State := { s with host := s.host.tail, response := .none }
  s.cycle.command.elim untold untold.command

/-- Without a reset the host's part of a cycle is the command and then the tick (92_eei_decisions.md D2). -/
theorem afterHost_of_no_reset (h : s.cycle.reset = none) :
    s.afterHost = if s.cycle.tick then s.told.onTick else s.told := by
  simp only [State.afterHost, State.told, h]
  cases s.cycle.command <;> rfl

/-- The host's part of a cycle writes pixels only by a reset or the RESTORE of a held snapshot; a tick does not. -/
theorem afterHost_fb_writers (h : s.afterHost.m.fb ≠ s.m.fb) :
    s.cycle.reset.isSome = true ∨ (s.cycle.command = some .restore ∧ s.snap.isSome = true) := by
  cases hr : s.cycle.reset with
  | some inputs => exact .inl rfl
  | none =>
    have sameAsTold : s.afterHost.m.fb = s.told.m.fb := by rw [afterHost_of_no_reset hr]; split <;> rfl
    rw [sameAsTold, State.told] at h
    cases hc : s.cycle.command with
    | none => rw [hc] at h; exact absurd rfl h
    | some c =>
      rw [hc] at h
      obtain ⟨rfl, held⟩ := command_fb_writers h
      exact .inr ⟨rfl, held⟩

/-! ## The step -/

theorem ready_of_inRange (hf : s.fault.code = .none) (hr : inRange s.m.pc.toNat 2 = true) : Ready s := by
  rw [inRange_iff] at hr
  exact ⟨hf, by simp only [memSize] at hr; omega⟩

/-- What a cycle makes of Machine State: what the host's part leaves, or what the decoded instruction makes of that. -/
theorem step_m_cases (h : step s = .next t) :
    t.m = s.afterHost.m ∨
      (s.stepGiven = true ∧ Ready s.afterHost ∧
        ∃ i, decodeWord (wordAtPc s.afterHost) = .ok i ∧ t = completed i (s.afterHost.setStatus .ok)) := by
  cases given : s.stepGiven with
  | false => obtain rfl := Host.Outcome.next.inj ((step_of_not_given given).symm.trans h); exact .inl rfl
  | true =>
    rcases issue_cases s.afterHost with ⟨_, hi⟩ | ⟨_, _, hi⟩ | ⟨_, _, e, _, hi⟩ | ⟨hn, hr, i, hd, hi⟩
    · obtain rfl := Host.Outcome.next.inj ((step_of_done given hi).symm.trans h); exact .inl rfl
    · obtain rfl := Host.Outcome.next.inj ((step_of_done given hi).symm.trans h); exact .inl rfl
    · obtain rfl := Host.Outcome.next.inj ((step_of_done given hi).symm.trans h); exact .inl rfl
    · refine (exec_m_cases ((step_of_execute given hi).symm.trans h)).imp id fun ht => ?_
      exact ⟨rfl, ready_of_inRange hn hr, i, by rw [wordAtPc_eq, hd], ht⟩

theorem completed_fb_writers (h : (completed i s).m.fb ≠ s.m.fb) :
    (∃ ign, i = .cls ign) ∨ ∃ x y n, i = .drw x y n := by
  cases i with
  | cls ign => exact .inl ⟨ign, rfl⟩
  | drw x y n => exact .inr ⟨x, y, n, rfl⟩
  | ldVK | ldMemV | ldVMem => simp at h
  | _ => exact absurd rfl h

/-- Settles O55: the host's part has its two writers, and a step that leaves its pixels changed ran CLS or DRW. -/
theorem pixelsHaveOnlyTheirWriters : Obligations.PixelsHaveOnlyTheirWriters := by
  refine ⟨fbOut_eq_pixelAt, fun s t h changed => ?_⟩
  by_cases kept : s.afterHost.m.fb = s.m.fb
  · rcases step_m_cases h with hm | ⟨given, ready, i, hd, rfl⟩
    · exact absurd ((congrArg (·.fb) hm).trans kept) changed
    · refine .inr (.inr ⟨given, ready, ?_⟩)
      rw [← kept] at changed
      exact (completed_fb_writers changed).imp (fun ⟨ign, hi⟩ => ⟨ign, hi ▸ hd⟩)
        fun ⟨x, y, n, hi⟩ => ⟨x, y, n, hi ▸ hd⟩
  · exact (afterHost_fb_writers kept).imp id .inl

end Sys2Proof.Machine
end

section
/-! SUPPORT. What the instructions of 41_flow.md do (R140 to R145): jumps, the two uses of the stack, and skips. -/

namespace Sys2Proof

open Sys2Proof.Machine Sys2Proof.Stmt

/-! ## Selection of the rows with a family nibble alone -/

theorem nnOf_eq_fieldNN (w : Word) : nnOf w = fieldNN w :=
  BitVec.eq_of_toNat_eq (toNat_extractLsb'_eq_fieldNN w)

theorem nnnOf_eq_fieldNNN (w : Word) : nnnOf w = fieldNNN w := by
  apply BitVec.eq_of_toNat_eq
  simp [nnnOf, fieldNNN]

theorem extractLsb'_eq_fieldIgn9 (w : Word) : w.extractLsb' 0 4 = fieldIgn9 w :=
  BitVec.eq_of_toNat_eq ((toNat_extractLsb'_eq_fieldN w).trans fieldIgn9_toNat.symm)

/-- A row that looks at the family nibble alone selects for its instruction if its family decodes to it. -/
theorem selects_of_family {name : String} {p : Word} {mk : Word → Instr}
    (hrow : ∀ w, (mk w).row = ⟨name, p, 0xF000⟩)
    (hdec : ∀ w, fieldF w = fieldF p → decodeWord w = .ok (mk w)) : Selects p 0xF000 mk :=
  selects_of_row hrow fun w selected =>
    hdec w (Nat.div_eq_of_eq_mul_left (by decide) (and_F000_eq_iff.1 selected).symm).symm

theorem selects_jp : Selects 0x1000 0xF000 (fun w => .jp (nnnOf w)) :=
  selects_of_family (fun _ => rfl) fun w (hf : fieldF w = 0x1) => by
    simp only [decodeWord, hf, nnnOf_eq_fieldNNN]

theorem selects_call : Selects 0x2000 0xF000 (fun w => .call (nnnOf w)) :=
  selects_of_family (fun _ => rfl) fun w (hf : fieldF w = 0x2) => by
    simp only [decodeWord, hf, nnnOf_eq_fieldNNN]

theorem selects_seImm : Selects 0x3000 0xF000 (fun w => .seImm (xOf w) (nnOf w)) :=
  selects_of_family (fun _ => rfl) fun w (hf : fieldF w = 0x3) => by
    simp only [decodeWord, hf, xOf_eq_fieldX, nnOf_eq_fieldNN]

theorem selects_sneImm : Selects 0x4000 0xF000 (fun w => .sneImm (xOf w) (nnOf w)) :=
  selects_of_family (fun _ => rfl) fun w (hf : fieldF w = 0x4) => by
    simp only [decodeWord, hf, xOf_eq_fieldX, nnOf_eq_fieldNN]

theorem selects_sneReg : Selects 0x9000 0xF000 (fun w => .sneReg (xOf w) (yOf w) (w.extractLsb' 0 4)) :=
  selects_of_family (fun _ => rfl) fun w (hf : fieldF w = 0x9) => by
    simp only [decodeWord, hf, xOf_eq_fieldX, yOf_eq_fieldY, extractLsb'_eq_fieldIgn9]

theorem selects_ret : Selects 0x000E 0xF00F (fun w => .ret (w.extractLsb' 4 8)) := by
  refine selects_of_row (r := (Instr.ret 0).row) (fun _ => rfl) fun w selected => ?_
  have fields : fieldF w * 0x1000 + fieldN w = 0xE := and_F00F_eq_iff.1 selected
  have hf : fieldF w = 0 := by omega
  have hk : fieldN w = 0xE := by omega
  simp only [decodeWord, decodeFamily0, hf, hk, extractLsb'_eq_fieldIgn0]

end Sys2Proof

namespace Sys2Proof.Machine

open Sys2Proof.Stmt

variable {s : State}

/-! ## Jumps and skips -/

theorem zextAddr_eq_ofNat (nnn : Addr12) : zextAddr nnn = BitVec.ofNat 16 nnn.toNat :=
  (BitVec.ofNat_toNat 16 nnn).symm

/-- Settles O3: the target is zero-extended, with the words of the row of JP. -/
theorem jpJumps : Obligations.JpJumps :=
  ⟨selects_jp, fun nnn s => congrArg (fun pc => Host.Outcome.next (s.setPc pc)) (zextAddr_eq_ofNat nnn)⟩

theorem State.skipIf_eq (s : State) (c : Bool) :
    s.skipIf c = { s with m := { s.m with pc := if c then s.m.pc + 4 else s.m.pc + 2 } } := by
  cases c <;> rfl

theorem State.skipIf_decide (s : State) (p : Prop) [Decidable p] :
    s.skipIf (decide p) = { s with m := { s.m with pc := if p then s.m.pc + 4 else s.m.pc + 2 } } := by
  simp only [State.skipIf_eq, decide_eq_true_eq]

/-- Settles O6: the skip on equality, with the words of the row of SE Vx, nn. -/
theorem seImmSkipsWhenEqual : Obligations.SeImmSkipsWhenEqual :=
  ⟨selects_seImm, fun x nn s => congrArg _ (s.skipIf_decide (s.reg x = nn))⟩

/-- Settles O7: the skip on difference, with the words of the row of SNE Vx, nn. -/
theorem sneImmSkipsWhenDifferent : Obligations.SneImmSkipsWhenDifferent :=
  ⟨selects_sneImm, fun x nn s => congrArg _ (s.skipIf_decide (s.reg x ≠ nn))⟩

/-- Settles O8: the skip on difference, which does not look at the ignored nibble, with the words of the row of
SNE Vx, Vy. -/
theorem sneRegSkipsWhenDifferent : Obligations.SneRegSkipsWhenDifferent :=
  ⟨selects_sneReg, fun x y _ s => congrArg _ (s.skipIf_decide (s.reg x ≠ s.reg y))⟩

/-! ## The stack -/

/-- No value of `sp` loses bits in the 16 that the latch records. -/
@[simp] theorem State.spWord_toNat (s : State) : s.spWord.toNat = s.m.sp.val :=
  Nat.mod_eq_of_lt (s.m.sp.isLt.trans (by decide))

/-- CALL with room on the stack. -/
theorem exec_call_of_lt (nnn : Addr12) (h : s.m.sp.val < 16) :
    exec (.call nnn) s =
      .next (((s.setStack ⟨s.m.sp.val, h⟩ s.m.pc).setSp ⟨s.m.sp.val + 1, Nat.succ_lt_succ h⟩).setPc (zextAddr nnn)) :=
  dif_pos h

/-- RET with `k + 1` entries in use. -/
theorem exec_ret_of_eq_succ (ign : BitVec 8) {k : Nat} (hsp : s.m.sp.val = k + 1) (hk : k < 16) :
    exec (.ret ign) s = .next ((s.setSp ⟨k, Nat.lt_succ_of_lt hk⟩).setPc (s.m.stack[k] + 2)) := by
  simp only [exec, execRet, hsp, Nat.add_sub_cancel]
  exact dif_pos k.succ_pos

/-- Settles O4: a push at `stack[sp]` with room for it, else the fault of the row of CALL. -/
theorem callPushesOrOverflows : Obligations.CallPushesOrOverflows := by
  refine ⟨selects_call, fun nnn s => ⟨fun room => ?_, fun full => ?_⟩⟩
  · have pushed := exec_call_of_lt nnn room
    rw [zextAddr_eq_ofNat] at pushed
    exact ⟨_, _, pushed, rfl, Vector.getElem_set_self room, fun j hj => Vector.getElem_set_ne room j.isLt hj.symm⟩
  · have overflow : faultOf (.call nnn) s = some (.stackOverflow, s.spWord) := if_neg (by simp [full, stackDepth])
    simpa [full] using raises_of_faultOf overflow (by decide)

/-- Settles O5: a pop of `stack[k]` with k + 1 entries in use, else the fault of the row of RET. -/
theorem retPopsOrUnderflows : Obligations.RetPopsOrUnderflows := by
  refine ⟨selects_ret, fun ign s => ⟨fun k hsp hk => ?_, fun empty => ?_⟩⟩
  · exact ⟨_, _, exec_ret_of_eq_succ ign hsp hk, rfl, BitVec.toNat_add _ 2⟩
  · have underflow : faultOf (.ret ign) s = some (.stackUnderflow, s.spWord) := if_neg (by simp [empty])
    simpa [empty] using raises_of_faultOf underflow (by decide)

/-- Settles O57: RET pops the entry that CALL pushed, which is the CALL's own address. -/
theorem retResumesAfterTheCall : Obligations.RetResumesAfterTheCall := by
  intro nnn ign s t u room called sameStack sameSp
  obtain rfl := Host.Outcome.next.inj ((exec_call_of_lt nnn room).symm.trans called)
  have hsp : u.m.sp.val = s.m.sp.val + 1 := congrArg Fin.val sameSp
  have pushed : u.m.stack[s.m.sp.val] = s.m.pc := by
    simp only [sameStack, State.setPc_stack, State.setSp_stack, State.setStack_stack, Vector.getElem_set_self]
  exact ⟨_, exec_ret_of_eq_succ ign hsp room, congrArg (· + 2) pushed, rfl⟩

end Sys2Proof.Machine
end

section
/-! SUPPORT. What the instructions of 42_alu.md do (R160 to R169): one register write, or a flag and then a register. -/

namespace Sys2Proof

open Sys2Proof.Machine Sys2Proof.Stmt

/-! ## Selection of the rows of families 0x6, 0x7, 0x8 and 0xC -/

theorem selects_ldImm : Selects 0x6000 0xF000 (fun w => .ldImm (xOf w) (nnOf w)) :=
  selects_of_family (fun _ => rfl) fun w (hf : fieldF w = 0x6) => by
    simp only [decodeWord, hf, xOf_eq_fieldX, nnOf_eq_fieldNN]

theorem selects_addImm : Selects 0x7000 0xF000 (fun w => .addImm (xOf w) (nnOf w)) :=
  selects_of_family (fun _ => rfl) fun w (hf : fieldF w = 0x7) => by
    simp only [decodeWord, hf, xOf_eq_fieldX, nnOf_eq_fieldNN]

theorem selects_rnd : Selects 0xC000 0xF000 (fun w => .rnd (xOf w) (nnOf w)) :=
  selects_of_family (fun _ => rfl) fun w (hf : fieldF w = 0xC) => by
    simp only [decodeWord, hf, xOf_eq_fieldX, nnOf_eq_fieldNN]

/-- A row of family 0x8 selects for its instruction if the second-level lookup of its low nibble finds it. -/
theorem selects_of_family8 {name : String} {p : Word} {mk : RegIdx → RegIdx → Instr}
    (hrow : ∀ x y, (mk x y).row = ⟨name, p, 0xF00F⟩) (hp : fieldF p = 0x8)
    (hdec : ∀ w, fieldN w = fieldN p → decodeFamily8 w = .ok (mk (fieldX w) (fieldY w))) :
    Selects p 0xF00F (fun w => mk (xOf w) (yOf w)) :=
  selects_of_row (fun _ => hrow _ _) fun w selected => by
    have fields : fieldF w * 0x1000 + fieldN w = p.toNat := and_F00F_eq_iff.1 selected
    have low := fieldN_lt w
    have hf : fieldF w = 0x8 := by rw [← hp, fieldF.eq_def p]; omega
    have hn : fieldN w = fieldN p := by rw [fieldN.eq_def p]; omega
    simp only [decodeWord, hf, hdec w hn, xOf_eq_fieldX, yOf_eq_fieldY]

theorem selects_ldReg : Selects 0x8000 0xF00F (fun w => .ldReg (xOf w) (yOf w)) :=
  selects_of_family8 (fun _ _ => rfl) rfl fun w (hn : fieldN w = 0x0) => by simp only [decodeFamily8, hn]

theorem selects_andReg : Selects 0x8002 0xF00F (fun w => .andReg (xOf w) (yOf w)) :=
  selects_of_family8 (fun _ _ => rfl) rfl fun w (hn : fieldN w = 0x2) => by simp only [decodeFamily8, hn]

theorem selects_xorReg : Selects 0x8003 0xF00F (fun w => .xorReg (xOf w) (yOf w)) :=
  selects_of_family8 (fun _ _ => rfl) rfl fun w (hn : fieldN w = 0x3) => by simp only [decodeFamily8, hn]

theorem selects_addReg : Selects 0x8004 0xF00F (fun w => .addReg (xOf w) (yOf w)) :=
  selects_of_family8 (fun _ _ => rfl) rfl fun w (hn : fieldN w = 0x4) => by simp only [decodeFamily8, hn]

theorem selects_subReg : Selects 0x8005 0xF00F (fun w => .subReg (xOf w) (yOf w)) :=
  selects_of_family8 (fun _ _ => rfl) rfl fun w (hn : fieldN w = 0x5) => by simp only [decodeFamily8, hn]

theorem selects_shr : Selects 0x8006 0xF00F (fun w => .shr (xOf w) (yOf w)) :=
  selects_of_family8 (fun _ _ => rfl) rfl fun w (hn : fieldN w = 0x6) => by simp only [decodeFamily8, hn]

end Sys2Proof

namespace Sys2Proof.Machine

open Sys2Proof.Stmt

/-! ## One register write -/

/-- Settles O9: one register write, with the words of the row of LD Vx, nn. -/
theorem ldImmLoads : Obligations.LdImmLoads :=
  ⟨selects_ldImm, fun x nn s => ⟨_, rfl, writesOne_setReg s x nn⟩⟩

/-- Settles O10: the one register written is x, so VF is written for x = 15 alone. -/
theorem addImmAddsWithoutCarry : Obligations.AddImmAddsWithoutCarry :=
  ⟨selects_addImm, fun x nn s => ⟨_, rfl, BitVec.toNat_add (s.reg x) nn ▸ writesOne_setReg s x (s.reg x + nn)⟩⟩

/-- Settles O11: one register write, with the words of the row of LD Vx, Vy. -/
theorem ldRegCopies : Obligations.LdRegCopies :=
  ⟨selects_ldReg, fun x y s => ⟨_, rfl, writesOne_setReg s x (s.reg y)⟩⟩

/-- A register write by the bits of the byte. -/
theorem setReg_getLsbD (s : State) (x : RegIdx) {b : Byte} {bits : Nat → Bool} (hb : ∀ k, b.getLsbD k = bits k) :
    (∀ k < 8, ((s.setReg x b).m.v[x]).getLsbD k = bits k) ∧
      ∀ r : RegIdx, r ≠ x → (s.setReg x b).m.v[r] = s.m.v[r] :=
  ⟨fun k _ => (congrArg (·.getLsbD k) (s.reg_setReg_self x b)).trans (hb k), (writesOne_setReg s x b).2⟩

/-- Settles O12: one register write, of the conjunction. -/
theorem andRegCombinesBits : Obligations.AndRegCombinesBits :=
  ⟨selects_andReg, fun x _ s => ⟨_, rfl, setReg_getLsbD s x fun _ => BitVec.getLsbD_and⟩⟩

/-- Settles O13: one register write, of the exclusive or. -/
theorem xorRegCombinesBits : Obligations.XorRegCombinesBits :=
  ⟨selects_xorReg, fun x _ s => ⟨_, rfl, setReg_getLsbD s x fun _ => BitVec.getLsbD_xor⟩⟩

/-- Settles O17: one register write, of the masked draw, whatever byte the draw is. -/
theorem rndMasksTheDraw : Obligations.RndMasksTheDraw :=
  ⟨selects_rnd, fun x _ s => ⟨_, rfl, setReg_getLsbD s x fun _ => BitVec.getLsbD_and⟩⟩

/-! ## The flag first, then the register (92_eei_decisions.md D22) -/

theorem carryFlag_toNat (a b : Byte) : (carryFlag a b).toNat = bit (a.toNat + b.toNat > 255) :=
  (flagByte_toNat _).trans (bit_congr decide_eq_true_iff)

theorem notBorrowFlag_toNat (a b : Byte) : (notBorrowFlag a b).toNat = bit (¬b.toNat > a.toNat) :=
  (flagByte_toNat _).trans (bit_congr (by simp))

theorem shiftedOutFlag_toNat (a : Byte) : (shiftedOutFlag a).toNat = a.toNat % 2 :=
  (BitVec.toNat_and a 1).trans (Nat.and_one_is_mod _)

/-- What an instruction reads from a register after its flag was written. -/
theorem reg_setReg_vf_toNat (s : State) (c : Byte) (r : RegIdx) :
    ((s.setReg vf c).reg r).toNat = afterFlag s c.toNat r := by
  rw [State.reg_setReg, afterFlag]
  by_cases hr : r = 15
  · rw [if_pos hr.symm, if_pos hr]
  · rw [if_neg (Ne.symm hr), if_neg hr]; rfl

/-- The registers after a flag and then the result were written, by values: `flag` is what the rule says of VF, which
keeps it unless it is x, and `value` what it says of `v[x]`. -/
theorem setReg_vf_setReg_toNat (s : State) (x : RegIdx) {c b : Byte} {flag value : Nat} (hc : c.toNat = flag)
    (hb : b.toNat = value) :
    let v := ((s.setReg vf c).setReg x b).m.v
    (v[x]).toNat = value ∧ (x ≠ 15 → (v[(15 : RegIdx)]).toNat = flag) ∧
      ∀ r : RegIdx, r ≠ x → r ≠ 15 → v[r] = s.m.v[r] := by
  refine ⟨?_, fun hx => ?_, fun r hx hf => ?_⟩
  · exact (congrArg _ (State.reg_setReg_self _ x b)).trans hb
  · have kept : ((s.setReg vf c).setReg x b).reg vf = c :=
      (State.reg_setReg_of_ne _ hx b).trans (s.reg_setReg_self vf c)
    exact (congrArg _ kept).trans hc
  · exact s.reg_setReg_setReg_of_ne (not_or.2 ⟨hx, hf⟩) c b

/-- The difference modulo 256 in the order of the rule, which no natural subtraction cuts off. -/
theorem toNat_sub_byte (a b : Byte) : (a - b).toNat = (a.toNat + 256 - b.toNat) % 256 := by
  have := b.isLt
  rw [BitVec.toNat_sub']; omega

/-- Settles O14: the carry, then the sum of the registers read after it. -/
theorem addRegCarriesThenAdds : Obligations.AddRegCarriesThenAdds := by
  refine ⟨selects_addReg, fun x y s => ⟨_, rfl, setReg_vf_setReg_toNat s x (carryFlag_toNat _ _) ?_⟩⟩
  rw [BitVec.toNat_add, reg_setReg_vf_toNat, reg_setReg_vf_toNat, carryFlag_toNat]
  rfl

/-- Settles O15: the not-borrow, then the difference of the registers read after it. -/
theorem subRegBorrowsThenSubtracts : Obligations.SubRegBorrowsThenSubtracts := by
  refine ⟨selects_subReg, fun x y s => ⟨_, rfl, setReg_vf_setReg_toNat s x (notBorrowFlag_toNat _ _) ?_⟩⟩
  rw [toNat_sub_byte, reg_setReg_vf_toNat, reg_setReg_vf_toNat, notBorrowFlag_toNat]
  rfl

/-- Settles O16: the bit shifted out, then half of `v[x]` as read after it; `y` occurs in neither write. -/
theorem shrShiftsVxRight : Obligations.ShrShiftsVxRight := by
  refine ⟨selects_shr, fun x _ s => ⟨_, rfl, setReg_vf_setReg_toNat s x (shiftedOutFlag_toNat _) ?_⟩⟩
  rw [BitVec.toNat_ushiftRight, reg_setReg_vf_toNat, shiftedOutFlag_toNat]
  rfl

end Sys2Proof.Machine
end

section
/-! SUPPORT. What the instructions of 43_index_memory.md do (R180 to R186): three that write `I`, and three that move
bytes between the registers and the memory at `I`, or raise DATA_OOB before they move any. -/

namespace Sys2Proof

open Sys2Proof.Machine Sys2Proof.Stmt

/-! ## Selection of the rows of families 0xA and 0xF -/

theorem selects_ldI : Selects 0xA000 0xF000 (fun w => .ldI (nnnOf w)) :=
  selects_of_family (fun _ => rfl) fun w (hf : fieldF w = 0xA) => by
    simp only [decodeWord, hf, nnnOf_eq_fieldNNN]

/-- A row of family 0xF selects for its instruction if the second-level lookup of its low byte finds it. -/
theorem selects_of_familyF {name : String} {p : Word} {mk : RegIdx → Instr}
    (hrow : ∀ x, (mk x).row = ⟨name, p, 0xF0FF⟩) (hp : fieldF p = 0xF)
    (hdec : ∀ w, (fieldNN w).toNat = (fieldNN p).toNat → decodeFamilyF w = .ok (mk (fieldX w))) :
    Selects p 0xF0FF (fun w => mk (xOf w)) :=
  selects_of_row (fun _ => hrow _) fun w selected => by
    have fields : fieldF w * 0x1000 + (fieldNN w).toNat = p.toNat := and_F0FF_eq_iff.1 selected
    have low := (fieldNN w).isLt
    have hf : fieldF w = 0xF := by rw [← hp, fieldF.eq_def p]; omega
    have hn : (fieldNN w).toNat = (fieldNN p).toNat := by rw [fieldNN_toNat p]; omega
    simp only [decodeWord, hf, hdec w hn, xOf_eq_fieldX]

theorem selects_addI : Selects 0xF01E 0xF0FF (fun w => .addI (xOf w)) :=
  selects_of_familyF (fun _ => rfl) rfl fun w (hn : (fieldNN w).toNat = 0x1E) => by simp only [decodeFamilyF, hn]

theorem selects_ldF : Selects 0xF029 0xF0FF (fun w => .ldF (xOf w)) :=
  selects_of_familyF (fun _ => rfl) rfl fun w (hn : (fieldNN w).toNat = 0x29) => by simp only [decodeFamilyF, hn]

theorem selects_ldB : Selects 0xF033 0xF0FF (fun w => .ldB (xOf w)) :=
  selects_of_familyF (fun _ => rfl) rfl fun w (hn : (fieldNN w).toNat = 0x33) => by simp only [decodeFamilyF, hn]

theorem selects_ldMemV : Selects 0xF055 0xF0FF (fun w => .ldMemV (xOf w)) :=
  selects_of_familyF (fun _ => rfl) rfl fun w (hn : (fieldNN w).toNat = 0x55) => by simp only [decodeFamilyF, hn]

theorem selects_ldVMem : Selects 0xF065 0xF0FF (fun w => .ldVMem (xOf w)) :=
  selects_of_familyF (fun _ => rfl) rfl fun w (hn : (fieldNN w).toNat = 0x65) => by simp only [decodeFamilyF, hn]

end Sys2Proof

namespace Sys2Proof.Machine

open Sys2Proof.Stmt

variable {i : Instr} {s : State}

/-! ## Writes of `I` -/

/-- Settles O18: one write of `I`, with the words of the row of LD I, nnn. -/
theorem ldILoadsTheIndex : Obligations.LdILoadsTheIndex :=
  ⟨selects_ldI, fun nnn s => congrArg (fun w => Host.Outcome.next (s.setI w).advance) (zextAddr_eq_ofNat nnn)⟩

theorem zextByte_toNat (b : Byte) : (zextByte b).toNat = b.toNat := BitVec.toNat_setWidth_of_le (by decide)

theorem indexOverflowFlag_toNat (w : Word) (a : Byte) :
    (indexOverflowFlag w a).toNat = bit (w.toNat + a.toNat > 0xFFF) :=
  (flagByte_toNat _).trans (bit_congr decide_eq_true_iff)

/-- Settles O19: the overflow, then the 16-bit sum of `I` and the register read after it. -/
theorem addIFlagsThenAdds : Obligations.AddIFlagsThenAdds := by
  refine ⟨selects_addI, fun x s => ⟨_, _, rfl, ?_, ?_⟩⟩
  · exact indexOverflowFlag_toNat s.m.i (s.reg x) ▸ writesOne_setReg s vf (indexOverflowFlag s.m.i (s.reg x))
  · rw [State.setI_i, BitVec.toNat_add, zextByte_toNat, reg_setReg_vf_toNat, indexOverflowFlag_toNat]
    rfl

/-- The address of a glyph, from the whole byte: nothing is lost in 16 bits. -/
theorem zextByte_mul_glyphSize (b : Byte) : zextByte b * BitVec.ofNat _ glyphSize = BitVec.ofNat 16 (b.toNat * 5) := by
  rw [BitVec.ofNat_mul]
  congr 1
  exact (BitVec.ofNat_toNat 16 b).symm

/-- Settles O20: one write of `I`, with the words of the row of LD F, Vx. -/
theorem ldFPointsAtAGlyph : Obligations.LdFPointsAtAGlyph :=
  ⟨selects_ldF, fun x s =>
    congrArg (fun w => Host.Outcome.next (s.setI w).advance) (zextByte_mul_glyphSize (s.reg x))⟩

/-- The optional increment of Fx55 and Fx65, modulo 2^16. -/
theorem State.legacyIncrement_i_toNat (s : State) (k : Nat) :
    (s.legacyIncrement k).m.i.toNat = if s.cfg.legacyIncrement then (s.m.i.toNat + k) % 65536 else s.m.i.toNat := by
  rw [State.legacyIncrement_i]
  split
  · rw [BitVec.toNat_add, BitVec.toNat_ofNat, Nat.add_mod_mod]
  · rfl

/-! ## The range of a data access (20_memory.md R56)

The instructions with `n` accesses through `I` have a fault of one shape: `hi` is `rfl` for Fx33, Fx55 and Fx65. -/

section

variable {n : Nat} (hi : faultOf i s = if s.dataInRange n then none else some (.dataOob, s.dataOobAddr))
include hi

theorem faultOf_of_reaches (h : Reaches s n) : faultOf i s = none :=
  hi.trans (if_pos ((reaches_iff s n).1 h))

theorem raises_dataOob_of_not_reaches (h : ¬Reaches s n) : Raises i s .dataOob (max s.m.i.toNat 0x1000) := by
  rw [reaches_iff] at h
  exact s.dataOobAddr_toNat ▸ raises_of_faultOf (hi.trans (if_neg h)) (by decide)

end

/-! ## Stores -/

/-- A completed instruction leaves every byte below and above its stores, in any memory. -/
theorem readByte_completed_of_outside (hf : faultOf i s = none) (a : Nat)
    (h : a < s.dataAddr 0 ∨ s.dataAddr 0 + storeCount i ≤ a) : (completed i s).readByte a = s.readByte a :=
  (readByte_completed hf a).trans
    (s.readByte_writeBytes_of_outside _ _ (by rw [length_storedBytes]; omega))

@[simp] theorem length_bcdDigits (b : Byte) : (bcdDigits b).length = 3 := rfl

/-- The digits of a byte lose nothing in 8 bits. -/
theorem bcdDigits_toNat (b : Byte) :
    (bcdDigits b)[0].toNat = b.toNat / 100 ∧ (bcdDigits b)[1].toNat = b.toNat / 10 % 10 ∧
      (bcdDigits b)[2].toNat = b.toNat % 10 := by
  have := b.isLt
  simp only [bcdDigits, List.getElem_cons_zero, List.getElem_cons_succ, BitVec.toNat_ofNat]
  omega

/-- Settles O21: three stores and an advance in range, else the fault of the row of LD B, Vx. -/
theorem ldBStoresDecimalDigits : Obligations.LdBStoresDecimalDigits := by
  refine ⟨selects_ldB, fun x s => ⟨fun inside => ?_, raises_dataOob_of_not_reaches rfl⟩⟩
  have hf : faultOf (.ldB x) s = none := faultOf_of_reaches rfl inside
  refine ⟨_, exec_of_faultOf_none hf, ?_, readByte_completed_of_outside hf, fun hm => ?_⟩
  · rw [completed, State.writeBytes_eq]; rfl
  · obtain ⟨hundreds, tens, units⟩ := bcdDigits_toNat (s.reg x)
    have digit (k : Nat) (hk : k < 3) :
        ((completed (.ldB x) s).readByte (s.m.i.toNat + k)).toNat = (bcdDigits (s.reg x))[k].toNat :=
      congrArg _ (readByte_completed_stored hf hm hk)
    exact ⟨(digit 0 (by decide)).trans hundreds, (digit 1 (by decide)).trans tens, (digit 2 (by decide)).trans units⟩

/-- In a canonical memory, each of `v[0..x]` reads back from its own address. -/
theorem readByte_completed_ldMemV {x r : RegIdx} (hf : faultOf (.ldMemV x) s = none)
    (hm : Memory.wf s.cfg.font s.m.memory = true) (hr : r.val ≤ x.val) :
    (completed (.ldMemV x) s).readByte (s.m.i.toNat + r.val) = s.m.v[r] := by
  have stored : r.val < (storedBytes (.ldMemV x) s).length := by
    rw [length_storedBytes]; exact Nat.lt_succ_of_le hr
  exact (readByte_completed_stored hf hm stored).trans (by simp [storedBytes])

/-- Settles O22: the stores, the optional increment and an advance in range, else the fault of the row of LD [I], Vx. -/
theorem ldMemVStoresRegisters : Obligations.LdMemVStoresRegisters := by
  refine ⟨selects_ldMemV, fun x s => ⟨fun inside => ?_, raises_dataOob_of_not_reaches rfl⟩⟩
  have hf : faultOf (.ldMemV x) s = none := faultOf_of_reaches rfl inside
  refine ⟨_, exec_of_faultOf_none hf, ?_, ?_, readByte_completed_of_outside hf,
    fun hm r => readByte_completed_ldMemV hf hm⟩
  · rw [completed, State.storeRegs_eq]; rfl
  · rw [completed_ldMemV_m]; exact s.legacyIncrement_i_toNat (x.val + 1)

/-! ## Loads -/

theorem reg_completed_ldVMem (x : RegIdx) (s : State) (r : RegIdx) :
    (completed (.ldVMem x) s).reg r = if r.val ≤ x.val then s.readByte (s.m.i.toNat + r.val) else s.reg r :=
  (s.reg_loadRegs (s.dataAddr 0) x.isLt r).trans (if_congr Nat.lt_succ_iff rfl rfl)

/-- Settles O23: the loads, the optional increment and an advance in range, else the fault of the row of LD Vx, [I]. -/
theorem ldVMemLoadsRegisters : Obligations.LdVMemLoadsRegisters := by
  refine ⟨selects_ldVMem, fun x s => ⟨fun inside => ?_, raises_dataOob_of_not_reaches rfl⟩⟩
  have completes := exec_of_faultOf_none (faultOf_of_reaches (i := .ldVMem x) rfl inside)
  refine ⟨(completed (.ldVMem x) s).m.v, (s.legacyIncrement (x.val + 1)).m.i, ?_, s.legacyIncrement_i_toNat _,
    reg_completed_ldVMem x s⟩
  rw [completes, completed, State.loadRegs_eq]; rfl

/-! ## A store and then a load -/

/-- Settles O58: the load reads each register from the address it was stored at. -/
theorem storeThenLoadRestoresRegisters : Obligations.StoreThenLoadRestoresRegisters := by
  intro x s t u hm hr stored
  have inside : Reaches s (x.val + 1) := .inr hr
  have hf : faultOf (.ldMemV x) s = none := faultOf_of_reaches rfl inside
  obtain rfl := Host.Outcome.next.inj ((exec_of_faultOf_none hf).symm.trans stored)
  refine ⟨fun plain => by simp [plain], fun sameMemory samePointer sameCfg => ?_⟩
  have inside' : Reaches u (x.val + 1) := by rwa [Reaches, samePointer]
  refine ⟨_, exec_of_faultOf_none (faultOf_of_reaches rfl inside'), fun k hk => ?_⟩
  calc (completed (.ldVMem x) u).reg k
      = u.readByte (u.m.i.toNat + k.val) := (reg_completed_ldVMem x u k).trans (if_pos hk)
    _ = (completed (.ldMemV x) s).readByte (s.m.i.toNat + k.val) := by
        rw [samePointer, State.readByte_congr sameMemory sameCfg]
    _ = s.m.v[k] := readByte_completed_ldMemV hf hm hk

end Sys2Proof.Machine
end

section
/-! SUPPORT. What the instructions of 44_timers_keys.md do (R200 to R205): two skips on the level of a key, or a
KEY_INDEX fault before they look at it, the key wait, and the accesses to the two timers. -/

namespace Sys2Proof

open Sys2Proof.Machine Sys2Proof.Stmt

/-! ## Selection of the rows of family 0xE, and of the other rows of family 0xF -/

/-- A row that looks at the family nibble and the low byte selects for its instruction if its words decode to it. -/
theorem selects_of_lowByte {name : String} {p : Word} {mk : RegIdx → Instr}
    (hrow : ∀ x, (mk x).row = ⟨name, p, 0xF0FF⟩)
    (hdec : ∀ w, fieldF w = fieldF p → (fieldNN w).toNat = (fieldNN p).toNat → decodeWord w = .ok (mk (fieldX w))) :
    Selects p 0xF0FF (fun w => mk (xOf w)) :=
  selects_of_row (fun _ => hrow _) fun w selected => by
    have fields : fieldF w * 0x1000 + (fieldNN w).toNat = p.toNat := and_F0FF_eq_iff.1 selected
    have low := (fieldNN w).isLt
    rw [xOf_eq_fieldX]
    exact hdec w (by rw [fieldF.eq_def p]; omega) (by rw [fieldNN_toNat p]; omega)

theorem selects_skp : Selects 0xE09E 0xF0FF (fun w => .skp (xOf w)) :=
  selects_of_lowByte (fun _ => rfl) fun w (hf : fieldF w = 0xE) (hn : (fieldNN w).toNat = 0x9E) => by
    simp only [decodeWord, hf, decodeFamilyE, hn]

theorem selects_sknp : Selects 0xE0A1 0xF0FF (fun w => .sknp (xOf w)) :=
  selects_of_lowByte (fun _ => rfl) fun w (hf : fieldF w = 0xE) (hn : (fieldNN w).toNat = 0xA1) => by
    simp only [decodeWord, hf, decodeFamilyE, hn]

theorem selects_ldVDt : Selects 0xF007 0xF0FF (fun w => .ldVDt (xOf w)) :=
  selects_of_familyF (fun _ => rfl) rfl fun w (hn : (fieldNN w).toNat = 0x07) => by simp only [decodeFamilyF, hn]

theorem selects_ldVK : Selects 0xF00A 0xF0FF (fun w => .ldVK (xOf w)) :=
  selects_of_familyF (fun _ => rfl) rfl fun w (hn : (fieldNN w).toNat = 0x0A) => by simp only [decodeFamilyF, hn]

theorem selects_ldDtV : Selects 0xF015 0xF0FF (fun w => .ldDtV (xOf w)) :=
  selects_of_familyF (fun _ => rfl) rfl fun w (hn : (fieldNN w).toNat = 0x15) => by simp only [decodeFamilyF, hn]

theorem selects_ldStV : Selects 0xF018 0xF0FF (fun w => .ldStV (xOf w)) :=
  selects_of_familyF (fun _ => rfl) rfl fun w (hn : (fieldNN w).toNat = 0x18) => by simp only [decodeFamilyF, hn]

end Sys2Proof

namespace Sys2Proof.Machine

open Sys2Proof.Stmt

variable {i : Instr} {x : RegIdx} {s : State}

/-! ## The key tests

Both have a fault of one shape: `hi` is `rfl` for SKP and SKNP (92_eei_decisions.md D28). -/

section

variable (hi : faultOf i s = if (s.reg x).toNat < nkeys then none else some (.keyIndex, zextByte (s.reg x)))
include hi

theorem exec_of_keyIndex_le (h : (s.m.v[x]).toNat ≤ 15) : exec i s = .next (completed i s) :=
  exec_of_faultOf_none (hi.trans (if_pos (Nat.lt_succ_of_le h)))

theorem raises_keyIndex_of_gt (h : (s.m.v[x]).toNat > 15) : Raises i s .keyIndex (s.m.v[x]).toNat :=
  zextByte_toNat (s.reg x) ▸ raises_of_faultOf (hi.trans (if_neg (Nat.not_lt.2 h))) (by decide)

end

theorem completed_skp (x : RegIdx) (s : State) :
    completed (.skp x) s = { s with m := { s.m with
      pc := if s.m.keys.getLsbD (s.m.v[x]).toNat = true then s.m.pc + 4 else s.m.pc + 2 } } :=
  s.skipIf_eq _

theorem completed_sknp (x : RegIdx) (s : State) :
    completed (.sknp x) s = { s with m := { s.m with
      pc := if s.m.keys.getLsbD (s.m.v[x]).toNat = false then s.m.pc + 4 else s.m.pc + 2 } } := by
  rw [completed, State.skipIf_eq]
  simp only [Bool.not_eq_true', State.keyDown, State.reg]

/-- Settles O24: a skip on the level of the key with an index in range, else the fault of the rows of SKP and SKNP. -/
theorem keyTestsSkip : Obligations.KeyTestsSkip :=
  ⟨selects_skp, selects_sknp, fun x s =>
    ⟨fun isKey => ⟨completed_skp x s ▸ exec_of_keyIndex_le rfl isKey,
        completed_sknp x s ▸ exec_of_keyIndex_le rfl isKey⟩,
      fun noSuchKey => ⟨raises_keyIndex_of_gt rfl noSuchKey, raises_keyIndex_of_gt rfl noSuchKey⟩⟩⟩

/-! ## The key wait -/

/-- The key that LOWEST picks is the smallest that is down. -/
theorem not_down_of_lt_pickKey_lowest {keys : Keys} (h : keys ≠ 0) {j : Nat} (hj : j < pickKey .lowest keys) :
    keys.getLsbD j = false := by
  obtain ⟨isKey, -, least⟩ := pickKey_spec .lowest h
  exact Bool.eq_false_iff.2 fun down => Nat.not_le.2 hj (least j (hj.trans isKey) down)

/-- The key that HIGHEST picks is the largest that is down: past 15 there is none. -/
theorem not_down_of_pickKey_highest_lt {keys : Keys} (h : keys ≠ 0) {j : Nat} (hj : pickKey .highest keys < j) :
    keys.getLsbD j = false := by
  obtain ⟨-, -, greatest⟩ := pickKey_spec .highest h
  exact Bool.eq_false_iff.2 fun down => Nat.not_le.2 hj (greatest j (BitVec.lt_of_getLsbD down) down)

/-- No key index loses bits in a register. -/
theorem pickKey_toByte_toNat (pick : KeyPick) {keys : Keys} (h : keys ≠ 0) :
    (BitVec.ofNat 8 (pickKey pick keys)).toNat = pickKey pick keys :=
  Nat.mod_eq_of_lt ((pickKey_spec pick h).1.trans (by decide))

/-- LD Vx, K with a key down. -/
theorem exec_ldVK_of_down (x : RegIdx) (h : s.m.keys ≠ 0) :
    exec (.ldVK x) s = .next (s.setReg x (BitVec.ofNat 8 (pickKey s.cfg.keywaitPick s.m.keys))).advance :=
  if_neg h

/-- Settles O26: WAIT alone without a key, else one register write, of the key that KEYWAIT_PICK picks. -/
theorem ldVKWaitsForAKey : Obligations.LdVKWaitsForAKey := by
  refine ⟨selects_ldVK, fun x s => ⟨fun noKey => if_pos noKey, fun down => ?_⟩⟩
  obtain ⟨isKey, isDown, -⟩ := pickKey_spec s.cfg.keywaitPick down
  refine ⟨_, pickKey s.cfg.keywaitPick s.m.keys, exec_ldVK_of_down x down, ?_, isKey, isDown, ?_, ?_⟩
  · have written := writesOne_setReg s x (BitVec.ofNat 8 (pickKey s.cfg.keywaitPick s.m.keys))
    rwa [pickKey_toByte_toNat _ down] at written
  · intro lowest j hj
    rw [lowest] at hj
    exact not_down_of_lt_pickKey_lowest down hj
  · intro highest j hj
    rw [highest] at hj
    exact not_down_of_pickKey_highest_lt down hj

/-! ## The timers -/

/-- Settles O25: one register write, of the delay timer. -/
theorem ldVDtReadsTheDelayTimer : Obligations.LdVDtReadsTheDelayTimer :=
  ⟨selects_ldVDt, fun x s => ⟨_, rfl, writesOne_setReg s x s.m.dt⟩⟩

/-- `sound_on` follows ST in every state (60_exceptions.md R262). -/
theorem State.soundOn_iff (s : State) : s.soundOn = true ↔ s.m.st.toNat ≠ 0 :=
  decide_eq_true_iff.trans BitVec.toNat_ne

/-- Settles O27: one write of a timer each, with the words of their rows. -/
theorem timersAreSetFromRegisters : Obligations.TimersAreSetFromRegisters :=
  ⟨selects_ldDtV, selects_ldStV, fun _ s => ⟨rfl, rfl, s.soundOn_iff⟩⟩

end Sys2Proof.Machine
end

section
/-! SUPPORT. What a word that matches no row of the opcode map does (46_unknown.md R220, R221): it is only logged, so
the unit stands at it until the host moves `pc`, writes memory or resets. -/

namespace Sys2Proof.Machine

open Sys2Proof.Stmt

variable {s t u : State} {c : HostCommand}

/-- Settles O34: such a word decodes to nothing, and a step on it only logs it. -/
theorem unknownWordOnlyLogs : Obligations.UnknownWordOnlyLogs :=
  fun _ given ready noRow => step_of_decodeWord_error given ready (decodeWord_error_of_no_row noRow)

/-! ## Standing still -/

/-- From s to t the unit stood still, ready for a step: t fetches what s fetches, and no fault is latched in it. The
configuration is kept with memory because unwritten bytes read as its font. -/
structure StandsStill (s t : State) : Prop where
  /-- the program counter -/
  pc : t.m.pc = s.m.pc
  /-- the written bytes -/
  memory : t.m.memory = s.m.memory
  /-- the sampled configuration -/
  cfg : t.cfg = s.cfg
  /-- no fault is latched at the end -/
  noFault : t.fault.code = .none

theorem StandsStill.refl (noFault : s.fault.code = .none) : StandsStill s s := ⟨rfl, rfl, rfl, noFault⟩

theorem StandsStill.trans (h : StandsStill s t) (h' : StandsStill t u) : StandsStill s u :=
  ⟨h'.pc.trans h.pc, h'.memory.trans h.memory, h'.cfg.trans h.cfg, h'.noFault⟩

theorem StandsStill.fetchedWord (h : StandsStill s t) : t.fetchedWord = s.fetchedWord := by
  simp only [State.fetchedWord, State.readByte, h.pc, h.memory, h.cfg]

theorem StandsStill.atUnknown (h : StandsStill s t) (atUnknown : s.AtUnknown) : t.AtUnknown := by
  rwa [State.AtUnknown, h.pc, h.fetchedWord]

/-! ## One quiet cycle -/

/-- Of the host commands, only RESTORE and LOAD_WRITE can change what the next step fetches, and none latches a fault. -/
theorem command_standsStill (noFault : s.fault.code = .none) (notRestore : c ≠ .restore)
    (notLoadWrite : ∀ a b, c ≠ .loadWrite a b) : StandsStill s (s.command c) := by
  cases c with
  | loadWrite a b => exact absurd rfl (notLoadWrite a b)
  | restore => exact absurd rfl notRestore
  | clearFault => exact ⟨rfl, rfl, rfl, rfl⟩
  | setKeys | clearDirty | save => exact ⟨rfl, rfl, rfl, noFault⟩

theorem told_standsStill (noFault : s.fault.code = .none) (quiet : Quiet s.cycle) : StandsStill s s.told := by
  obtain ⟨-, notRestore, notLoadWrite⟩ := quiet
  have untold : StandsStill s { s with host := s.host.tail, response := .none } := ⟨rfl, rfl, rfl, noFault⟩
  rw [State.told]
  cases told : s.cycle.command with
  | none => exact untold
  | some c =>
    rw [told] at notRestore notLoadWrite
    exact untold.trans (command_standsStill noFault (fun h => notRestore (congrArg some h))
      fun a b h => notLoadWrite a b (congrArg some h))

/-- The tick that may follow the command only moves the timers. -/
theorem afterHost_standsStill (noFault : s.fault.code = .none) (quiet : Quiet s.cycle) : StandsStill s s.afterHost := by
  have still := told_standsStill noFault quiet
  rw [afterHost_of_no_reset quiet.1]
  split
  · exact ⟨still.pc, still.memory, still.cfg, still.noFault⟩
  · exact still

theorem wordAtPc_unknown_of_atUnknown (noFault : s.fault.code = .none) (atUnknown : s.AtUnknown) :
    Ready s ∧ ∃ e, decodeWord (wordAtPc s) = .error e :=
  ⟨ready_of_inRange noFault atUnknown.1, wordAtPc_eq s ▸ atUnknown.2⟩

/-- A quiet cycle at an unknown word: the unit stands still, and a step answers UNKNOWN. -/
theorem step_standsStill (noFault : s.fault.code = .none) (atUnknown : s.AtUnknown) (quiet : Quiet s.cycle) :
    ∃ t, step s = .next t ∧ StandsStill s t ∧ t.host = s.host.tail ∧ (s.cycle.step = true → t.status = .unknown) := by
  have still := afterHost_standsStill noFault quiet
  have noReset : s.cycle.reset.isNone = true := Option.isNone_iff_eq_none.2 quiet.1
  cases given : s.cycle.step with
  | false =>
    exact ⟨_, step_of_not_given (by rw [State.stepGiven, given, Bool.false_and]), still, afterHost_host s, nofun⟩
  | true =>
    obtain ⟨ready, unknown⟩ := wordAtPc_unknown_of_atUnknown still.noFault (still.atUnknown atUnknown)
    have onlyLogs := step_of_decodeWord_error (by rw [State.stepGiven, given, noReset, Bool.true_and]) ready unknown
    exact ⟨_, onlyLogs, ⟨still.pc, still.memory, still.cfg, still.noFault⟩, afterHost_host s, fun _ => rfl⟩

/-! ## Any number of quiet cycles -/

/-- What holds of every scheduled cycle and of the cycle past the schedule (log 3) holds of this one. -/
theorem cycle_of_head? {P : Cycle → Prop} (past : P Cycle.stepOnly) (scheduled : ∀ c, s.host[0]? = some c → P c) :
    P s.cycle := by
  rw [State.cycle, List.headD_eq_head?_getD, List.head?_eq_getElem?]
  cases h : s.host[0]? with
  | none => exact past
  | some c => exact scheduled c h

theorem quiet_stepOnly : Quiet Cycle.stepOnly := ⟨rfl, nofun, nofun⟩

/-- Of n + 1 quiet cycles the first is quiet, and so are the n after it. -/
theorem quiet_take_succ {n : Nat} (quiet : ∀ c ∈ s.host.take (n + 1), Quiet c) :
    Quiet s.cycle ∧ ∀ c ∈ s.host.tail.take n, Quiet c := by
  rw [State.cycle]
  cases h : s.host with
  | nil => exact ⟨quiet_stepOnly, by simp⟩
  | cons first rest =>
    rw [h, List.take_succ_cons] at quiet
    exact List.forall_mem_cons.1 quiet

/-- Through any number of quiet cycles at an unknown word the unit stands still; the last one's step answers UNKNOWN. -/
theorem run_standsStill {n : Nat} (noFault : s.fault.code = .none) (atUnknown : s.AtUnknown)
    (quiet : ∀ c ∈ s.host.take n, Quiet c) :
    ∃ t : State, core.run n s = .next t ∧ StandsStill s t ∧
      (n ≠ 0 → (∀ c, s.host[n - 1]? = some c → c.step = true) → t.status = .unknown) := by
  induction n generalizing s with
  | zero => exact ⟨s, rfl, .refl noFault, (absurd rfl ·)⟩
  | succ n ih =>
    obtain ⟨quietNow, quietThen⟩ := quiet_take_succ quiet
    obtain ⟨u, hstep, still, hhost, hstatus⟩ := step_standsStill noFault atUnknown quietNow
    rw [← hhost] at quietThen
    obtain ⟨t, hrun, stillThen, lastStep⟩ := ih still.noFault (still.atUnknown atUnknown) quietThen
    refine ⟨t, (run_succ_of_step core n s u hstep).trans hrun, still.trans stillThen, fun _ given => ?_⟩
    rw [Nat.add_sub_cancel] at given
    cases n with
    | zero =>
      obtain rfl : u = t := Host.Outcome.next.inj hrun
      exact hstatus (cycle_of_head? (P := (·.step = true)) rfl given)
    | succ k =>
      refine lastStep (Nat.succ_ne_zero k) fun c hc => given c ?_
      rwa [hhost, List.getElem?_tail] at hc

/-- Settles O37: the unit stands still, and where it stands is the unknown word. -/
theorem unknownWordStalls : Obligations.UnknownWordStalls := by
  intro n s noFault atUnknown quiet
  obtain ⟨t, hrun, still, lastStep⟩ := run_standsStill noFault atUnknown quiet
  exact ⟨t, hrun, still.pc, still.memory, still.noFault, still.atUnknown atUnknown, lastStep⟩

end Sys2Proof.Machine
end

section
/-! SUPPORT. The fault a step raises (60_exceptions.md R241, R242): read off the state the step starts from, by the
range of the fetch and then by the decoded instruction. -/

namespace Sys2Proof.Machine

open Sys2Proof.Stmt

variable {i : Instr} {s t : State} {c : FaultCode} {a : Word}

/-! ## The fault of an instruction, code by code -/

theorem ite_fault_eq_some_iff {inBounds : Prop} [Decidable inBounds] {addr : Word} :
    (if inBounds then none else some (c, addr)) = some (c, a) ↔ ¬inBounds ∧ a = addr := by
  rw [Option.ite_none_left_eq_some, Option.some_inj, Prod.mk.injEq, eq_self, true_and, eq_comm]

theorem exists_access_beyond_iff (s : State) (n : Nat) :
    (∃ k < n, s.m.i.toNat + k > 0xFFF) ↔ ¬s.dataInRange n = true := by
  rw [State.dataInRange_iff]
  simp only [memSize]
  constructor
  · rintro ⟨k, hk, beyond⟩; omega
  · intro h; exact ⟨n - 1, by omega, by omega⟩

/-- Only the four instructions that access memory through `I` raise DATA_OOB. -/
theorem faultOf_dataOob_iff :
    faultOf i s = some (.dataOob, a) ↔ (∃ k < accessCount i, s.m.i.toNat + k > 0xFFF) ∧ a = s.dataOobAddr := by
  rw [exists_access_beyond_iff]
  cases i with
  | drw | ldB | ldMemV | ldVMem => exact ite_fault_eq_some_iff
  | _ => simp [faultOf, accessCount, State.dataInRange, inRange]

theorem faultOf_stackOverflow_iff :
    faultOf i s = some (.stackOverflow, a) ↔ (∃ nnn, i = .call nnn) ∧ s.m.sp.val = 16 ∧ a = s.spWord := by
  have full : ¬s.m.sp.val < stackDepth ↔ s.m.sp.val = 16 := by
    have := s.m.sp.isLt
    simp only [stackDepth]; omega
  cases i with
  | call nnn => simp only [faultOf, ite_fault_eq_some_iff, full, Instr.call.injEq, exists_eq', true_and]
  | _ => simp [faultOf]

theorem faultOf_stackUnderflow_iff :
    faultOf i s = some (.stackUnderflow, a) ↔ (∃ ign, i = .ret ign) ∧ s.m.sp.val = 0 ∧ a = s.spWord := by
  cases i with
  | ret ign =>
    simp only [faultOf, ite_fault_eq_some_iff, Nat.pos_iff_ne_zero, not_not, Instr.ret.injEq, exists_eq', true_and]
  | _ => simp [faultOf]

theorem faultOf_keyIndex_iff :
    faultOf i s = some (.keyIndex, a) ↔
      ∃ x, (i = .skp x ∨ i = .sknp x) ∧ (s.m.v[x]).toNat > 15 ∧ a = zextByte (s.m.v[x]) := by
  have tested (x : RegIdx) :
      (if (s.reg x).toNat < nkeys then none else some (FaultCode.keyIndex, zextByte (s.reg x))) =
        some (.keyIndex, a) ↔ (s.m.v[x]).toNat > 15 ∧ a = zextByte (s.m.v[x]) :=
    ite_fault_eq_some_iff.trans (and_congr_left' Nat.not_lt)
  cases i with
  | skp x | sknp x => exact (tested x).trans (by simp)
  | _ => simp [faultOf]

/-- FETCH_OOB is no instruction's fault: it comes before there is one. -/
theorem faultOf_ne_fetchOob : faultOf i s ≠ some (.fetchOob, a) := by
  cases i <;> simp [faultOf]

/-! ## The fault of a step -/

/-- The fault, with its address, that a step raises in a state without a latched fault: that of the fetch, else that of
the decoded instruction. `step_of_faultAtPc_some` and `step_of_faultAtPc_none` tie it to `step`. -/
def faultAtPc (s : State) : Option (FaultCode × Word) :=
  if s.m.pc.toNat ≤ 0xFFE then
    match decodeWord (wordAtPc s) with
    | .ok i => faultOf i s
    | .error _ => none
  else some (.fetchOob, s.fetchOobAddr)

theorem faultAtPc_fetchOob_iff : faultAtPc s = some (.fetchOob, a) ↔ s.m.pc.toNat > 0xFFE ∧ a = s.fetchOobAddr := by
  unfold faultAtPc
  split
  · rename_i inMemory
    have notBeyond : ¬s.m.pc.toNat > 0xFFE := Nat.not_lt.2 inMemory
    split <;> simp [notBeyond, faultOf_ne_fetchOob]
  · rename_i beyond
    simp [Nat.not_le.1 beyond, eq_comm]

theorem faultAtPc_eq_some_iff (hc : c ≠ .fetchOob) :
    faultAtPc s = some (c, a) ↔
      s.m.pc.toNat ≤ 0xFFE ∧ ∃ i, decodeWord (wordAtPc s) = .ok i ∧ faultOf i s = some (c, a) := by
  unfold faultAtPc
  split
  · rename_i inMemory
    split <;> rename_i hd <;> simp [inMemory, hd]
  · rename_i beyond
    simp [beyond, hc.symm]

theorem faultOf_setStatus (r : Status) : faultOf i (s.setStatus r) = faultOf i s := faultOf_within s (s.setStatus r) i

theorem inRange_pc_eq_false (h : s.m.pc.toNat > 0xFFE) : inRange s.m.pc.toNat 2 = false := by
  rw [Bool.eq_false_iff, ne_eq, inRange_iff]; simp only [memSize]; omega

/-- A step with a fault raises it, with the fetched word (60_exceptions.md R242). -/
theorem step_of_faultAtPc_some (given : s.stepGiven = true) (noFault : s.afterHost.fault.code = .none)
    (h : faultAtPc s.afterHost = some (c, a)) :
    step s = .next (s.afterHost.raise c (wordAtPc s.afterHost) a) := by
  by_cases hc : c = .fetchOob
  · subst hc
    obtain ⟨beyond, rfl⟩ := faultAtPc_fetchOob_iff.1 h
    exact step_of_done given (issue_of_fetch_out_of_range noFault (inRange_pc_eq_false beyond))
  · obtain ⟨inMemory, i, hd, hf⟩ := (faultAtPc_eq_some_iff hc).1 h
    obtain ⟨-, fetched⟩ := encodeOfDecodeIsTheWord _ _ hd
    rw [step_of_execute given (issue_of_decodeWord_ok ⟨noFault, inMemory⟩ hd),
      exec_of_faultOf_some ((faultOf_setStatus .ok).trans hf), fetched]
    rfl

/-- A step without a fault leaves none latched. -/
theorem step_of_faultAtPc_none (given : s.stepGiven = true) (noFault : s.afterHost.fault.code = .none)
    (h : faultAtPc s.afterHost = none) : ∃ t, step s = .next t ∧ t.fault.code = .none := by
  unfold faultAtPc at h
  split at h
  · rename_i inMemory
    have ready : Ready s.afterHost := ⟨noFault, inMemory⟩
    split at h
    · rename_i i hd
      have hf : faultOf i (s.afterHost.setStatus .ok) = none := (faultOf_setStatus .ok).trans h
      refine ⟨_, (step_of_execute given (issue_of_decodeWord_ok ready hd)).trans (exec_of_faultOf_none hf), ?_⟩
      rw [(completes_completed hf).fault]
      exact noFault
    · rename_i e hd
      exact ⟨_, step_of_decodeWord_error given ready ⟨e, hd⟩, noFault⟩
  · cases h

section

variable (given : s.stepGiven = true) (noFault : s.afterHost.fault.code = .none) (h : step s = .next t)
include given noFault h

/-- A latched fault is the one of the step. -/
theorem eq_raise_of_latched (latched : t.fault.code ≠ .none) :
    faultAtPc s.afterHost = some (t.fault.code, t.fault.addr) ∧
      t = s.afterHost.raise t.fault.code (wordAtPc s.afterHost) t.fault.addr := by
  cases hf : faultAtPc s.afterHost with
  | none =>
    obtain ⟨u, hu, clear⟩ := step_of_faultAtPc_none given noFault hf
    obtain rfl := Host.Outcome.next.inj (hu.symm.trans h)
    exact absurd clear latched
  | some f =>
    obtain rfl := Host.Outcome.next.inj ((step_of_faultAtPc_some given noFault hf).symm.trans h)
    exact ⟨rfl, rfl⟩

theorem faultAtPc_of_latched (latched : t.fault.code = c) (hc : c ≠ .none) :
    faultAtPc s.afterHost = some (c, t.fault.addr) :=
  latched ▸ (eq_raise_of_latched given noFault h (latched ▸ hc)).1

theorem latched_iff (hc : c ≠ .none) : t.fault.code = c ↔ ∃ a, faultAtPc s.afterHost = some (c, a) := by
  refine ⟨fun latched => ⟨_, faultAtPc_of_latched given noFault h latched hc⟩, fun ⟨a, hf⟩ => ?_⟩
  obtain rfl := Host.Outcome.next.inj ((step_of_faultAtPc_some given noFault hf).symm.trans h)
  rfl

end

/-- Settles O40: the latched fault is the one of the step, and raising it writes the latch and the status. -/
theorem faultsArePrecise : Obligations.FaultsArePrecise :=
  fun _ _ given noFault h latched => (eq_raise_of_latched given noFault h latched).2

/-! ## The causes, as the rule lists them -/

theorem faultAtPc_dataOob_iff :
    faultAtPc s = some (.dataOob, a) ↔
      (s.m.pc.toNat ≤ 0xFFE ∧
        ∃ i, decodeWord (wordAtPc s) = .ok i ∧ ∃ k < accessCount i, s.m.i.toNat + k > 0xFFF) ∧
      a = s.dataOobAddr := by
  simp only [faultAtPc_eq_some_iff (by decide : FaultCode.dataOob ≠ .fetchOob), faultOf_dataOob_iff, and_assoc,
    ← exists_and_right]

theorem faultAtPc_stackOverflow_iff :
    faultAtPc s = some (.stackOverflow, a) ↔
      (s.m.pc.toNat ≤ 0xFFE ∧ ∃ nnn, decodeWord (wordAtPc s) = .ok (.call nnn) ∧ s.m.sp.val = 16) ∧
        a = s.spWord := by
  rw [faultAtPc_eq_some_iff (by decide)]
  simp only [faultOf_stackOverflow_iff]
  constructor
  · rintro ⟨inMemory, _, hd, ⟨nnn, rfl⟩, full, rfl⟩; exact ⟨⟨inMemory, nnn, hd, full⟩, rfl⟩
  · rintro ⟨⟨inMemory, nnn, hd, full⟩, rfl⟩; exact ⟨inMemory, _, hd, ⟨nnn, rfl⟩, full, rfl⟩

theorem faultAtPc_stackUnderflow_iff :
    faultAtPc s = some (.stackUnderflow, a) ↔
      (s.m.pc.toNat ≤ 0xFFE ∧ ∃ ign, decodeWord (wordAtPc s) = .ok (.ret ign) ∧ s.m.sp.val = 0) ∧
        a = s.spWord := by
  rw [faultAtPc_eq_some_iff (by decide)]
  simp only [faultOf_stackUnderflow_iff]
  constructor
  · rintro ⟨inMemory, _, hd, ⟨ign, rfl⟩, empty, rfl⟩; exact ⟨⟨inMemory, ign, hd, empty⟩, rfl⟩
  · rintro ⟨⟨inMemory, ign, hd, empty⟩, rfl⟩; exact ⟨inMemory, _, hd, ⟨ign, rfl⟩, empty, rfl⟩

theorem faultAtPc_keyIndex_iff :
    faultAtPc s = some (.keyIndex, a) ↔
      s.m.pc.toNat ≤ 0xFFE ∧ ∃ x,
        (decodeWord (wordAtPc s) = .ok (.skp x) ∨ decodeWord (wordAtPc s) = .ok (.sknp x)) ∧
          (s.m.v[x]).toNat > 15 ∧ a = zextByte (s.m.v[x]) := by
  rw [faultAtPc_eq_some_iff (by decide)]
  simp only [faultOf_keyIndex_iff]
  constructor
  · rintro ⟨inMemory, _, hd, x, rfl | rfl, cause⟩
    · exact ⟨inMemory, x, .inl hd, cause⟩
    · exact ⟨inMemory, x, .inr hd, cause⟩
  · rintro ⟨inMemory, x, hd | hd, cause⟩
    · exact ⟨inMemory, _, hd, x, .inl rfl, cause⟩
    · exact ⟨inMemory, _, hd, x, .inr rfl, cause⟩

/-- Settles O39: each code is latched iff it is the fault of the step, whose causes and addresses are the rule's. -/
theorem onlyTheListedCausesFault : Obligations.OnlyTheListedCausesFault := by
  intro s t given noFault h
  have latched (c : FaultCode) (hc : c ≠ .none) := latched_iff given noFault h hc
  have fault {c : FaultCode} (hc : c ≠ .none) (ht : t.fault.code = c) := faultAtPc_of_latched given noFault h ht hc
  refine ⟨?_, ?_, ?_, ?_, ?_, fun ht => ?_, fun ht => ?_, fun ht => ?_, fun ht => ?_, fun ht => ?_⟩
  · simp only [latched .fetchOob nofun, faultAtPc_fetchOob_iff, exists_eq_right]
  · simp only [latched .dataOob nofun, faultAtPc_dataOob_iff, exists_eq_right]
  · simp only [latched .stackOverflow nofun, faultAtPc_stackOverflow_iff, exists_eq_right]
  · simp only [latched .stackUnderflow nofun, faultAtPc_stackUnderflow_iff, exists_eq_right]
  · simp only [latched .keyIndex nofun, faultAtPc_keyIndex_iff]
    exact ⟨fun ⟨_, inMemory, x, hd, high, _⟩ => ⟨inMemory, x, hd, high⟩,
      fun ⟨inMemory, x, hd, high⟩ => ⟨_, inMemory, x, hd, high, rfl⟩⟩
  · obtain ⟨beyond, ha⟩ := faultAtPc_fetchOob_iff.1 (fault nofun ht)
    rw [ha, State.fetchOobAddr_toNat _ (inRange_pc_eq_false beyond)]
  · rw [(faultAtPc_dataOob_iff.1 (fault nofun ht)).2, State.dataOobAddr_toNat]
  · rw [(faultAtPc_stackOverflow_iff.1 (fault nofun ht)).2, State.spWord_toNat]
  · rw [(faultAtPc_stackUnderflow_iff.1 (fault nofun ht)).2, State.spWord_toNat]
  · obtain ⟨-, x, hd, -, ha⟩ := faultAtPc_keyIndex_iff.1 (fault nofun ht)
    exact ⟨x, hd, by rw [ha, zextByte_toNat]⟩

end Sys2Proof.Machine
end

section
/-! SUPPORT. How a latched fault is held and cleared (60_exceptions.md R244, R245): a step leaves it, and of the host's
signals only reset, CLEAR_FAULT and the RESTORE of a held snapshot write the latch. -/

namespace Sys2Proof.Machine

open Sys2Proof.Stmt

variable {s t : State} {c : HostCommand} {cyc : Cycle} {rest : List Cycle}

/-! ## The next scheduled cycle -/

theorem cycle_of_cons (h : s.host = cyc :: rest) : s.cycle = cyc := by rw [State.cycle, h]; rfl

theorem stepGiven_of_cons (h : s.host = cyc :: rest) : s.stepGiven = (cyc.step && cyc.reset.isNone) := by
  rw [State.stepGiven, cycle_of_cons h]

theorem told_of_cons (h : s.host = cyc :: rest) :
    s.told = cyc.command.elim { s with host := rest, response := .none }
      (State.command { s with host := rest, response := .none }) := by
  rw [State.told, cycle_of_cons h, h]; rfl

theorem afterHost_of_cons (h : s.host = cyc :: rest) (noReset : cyc.reset = none) :
    s.afterHost = if cyc.tick then s.told.onTick else s.told := by
  obtain rfl := cycle_of_cons h
  exact afterHost_of_no_reset noReset

/-! ## A step while a fault is latched -/

/-- A step with a fault latched only answers HALTED. -/
theorem step_of_latched (given : s.stepGiven = true) (latched : s.afterHost.fault.code ≠ .none) :
    step s = .next (s.afterHost.setStatus .halted) :=
  step_of_done given (if_neg latched)

theorem tickDown_eq_ofNat (b : Byte) : tickDown b = BitVec.ofNat 8 (b.toNat - 1) := by
  rw [← tickDown_toNat, BitVec.ofNat_toNat, BitVec.setWidth_eq]

/-- Settles O36: a latched fault ends the step; a tick before it has counted the timers down. -/
theorem haltedStepDoesNothing : Obligations.HaltedStepDoesNothing := by
  refine ⟨fun s => step_of_latched, fun s rest latched h => ?_⟩
  have ticked : s.afterHost = ({ s with host := rest, response := .none } : State).onTick := by
    rw [afterHost_of_cons h rfl, told_of_cons h]; rfl
  rw [step_of_latched (stepGiven_of_cons h) (ticked ▸ latched), ticked]
  simp only [onTick_eq, tickDown_eq_ofNat]
  rfl

/-- Settles O42: each timer counts down on its own. -/
theorem tickDecrementsTheTimers : Obligations.TickDecrementsTheTimers :=
  fun s => ⟨_, _, onTick_eq s, tickDown_toNat s.m.dt, tickDown_toNat s.m.st⟩

/-! ## Who writes the latch -/

theorem command_fault_writers (h : (s.command c).fault ≠ s.fault) :
    c = .clearFault ∨ c = .restore ∧ s.snap.isSome = true := by
  cases c with
  | loadWrite a b =>
    simp only [State.command, State.loadWrite] at h
    split at h <;> exact absurd rfl h
  | clearFault => exact .inl rfl
  | restore =>
    cases held : s.snap with
    | none => exact absurd (congrArg (·.fault) (restore_of_none held)) h
    | some saved => exact .inr ⟨rfl, rfl⟩
  | _ => exact absurd rfl h

theorem afterHost_fault_writers (h : s.afterHost.fault ≠ s.fault) :
    s.cycle.reset.isSome = true ∨ s.cycle.command = some .clearFault ∨
      (s.cycle.command = some .restore ∧ s.snap.isSome = true) := by
  cases hr : s.cycle.reset with
  | some inputs => exact .inl rfl
  | none =>
    have sameAsTold : s.afterHost.fault = s.told.fault := by rw [afterHost_of_no_reset hr]; split <;> rfl
    rw [sameAsTold, State.told] at h
    cases hc : s.cycle.command with
    | none => rw [hc] at h; exact absurd rfl h
    | some c =>
      rw [hc] at h
      exact .inr ((command_fault_writers h).imp (congrArg some) (And.imp_left (congrArg some)))

/-- A step leaves a latched fault. -/
theorem step_keeps_latched (latched : s.afterHost.fault.code ≠ .none) (h : step s = .next t) :
    t.fault = s.afterHost.fault := by
  cases given : s.stepGiven with
  | false => obtain rfl := Host.Outcome.next.inj ((step_of_not_given given).symm.trans h); rfl
  | true => obtain rfl := Host.Outcome.next.inj ((step_of_latched given latched).symm.trans h); rfl

/-! ## The same fault again -/

/-- The fault of a step depends on what an instruction may see alone. -/
theorem faultAtPc_congr {r : State} (hm : r.m = s.m) (hc : r.cfg = s.cfg) (hd : r.draws = s.draws) :
    faultAtPc r = faultAtPc s := by
  rw [State.eq_within hm hc hd]
  simp only [faultAtPc, faultOf_within]
  rfl

/-- With nothing scheduled, a step with a fault raises it. -/
theorem step_of_nil_of_faultAtPc {code : FaultCode} {a : Word} (h : s.host = []) (noFault : s.fault.code = .none)
    (hf : faultAtPc s = some (code, a)) :
    step s = .next (({ s with response := .none } : State).raise code (wordAtPc s) a) := by
  have ha := afterHost_of_nil h
  have fault : faultAtPc s.afterHost = some (code, a) := by rw [ha, ← hf]; exact faultAtPc_congr rfl rfl rfl
  rw [step_of_faultAtPc_some (stepGiven_of_nil h) (ha ▸ noFault) fault, ha]
  rfl

/-- Settles O41: the host's part has its three writers of the latch and a step leaves it; once it is cleared, the step
starts from the Machine State that raised the fault. -/
theorem onlyTheHostClearsAFault : Obligations.OnlyTheHostClearsAFault := by
  refine ⟨fun s t latched h => ?_, fun _ _ => rfl, fun _ => rfl, fun s held => ?_,
    fun s t given noFault h latched => ?_⟩
  · by_cases kept : s.afterHost.fault = s.fault
    · exact .inr ((step_keeps_latched (kept ▸ latched) h).trans kept)
    · exact .inl (afterHost_fault_writers kept)
  · obtain ⟨saved, held⟩ := Option.isSome_iff_exists.1 held
    exact congrArg (·.fault) (restore_of_some held)
  · obtain ⟨hf, raised⟩ := eq_raise_of_latched given noFault h latched
    generalize t.fault.code = code, t.fault.addr = a at hf raised
    subst raised
    exact step_of_nil_of_faultAtPc rfl rfl ((faultAtPc_congr rfl rfl rfl).trans hf)

end Sys2Proof.Machine
end

section
/-! SUPPORT. Every cycle answers a next state, and what the host commands do (60_exceptions.md R246, R265, R266,
R270). -/

namespace Sys2Proof.Machine

open Sys2Proof.Stmt

variable {i : Instr} {s t u : State} {c : HostCommand} {cyc : Cycle} {rest : List Cycle}

/-! ## Every cycle answers a next state -/

theorem step_next (s : State) : ∃ t, step s = .next t := by
  cases given : s.stepGiven with
  | false => exact ⟨_, step_of_not_given given⟩
  | true =>
    cases hi : s.afterHost.issue with
    | done t => exact ⟨t, step_of_done given hi⟩
    | execute i t => exact step_of_execute given hi ▸ exec_next i t

theorem run_next (n : Nat) (s : State) : ∃ t, core.run n s = .next t := by
  induction n generalizing s with
  | zero => exact ⟨s, rfl⟩
  | succ n ih =>
    obtain ⟨t, ht⟩ := step_next s
    exact run_succ_of_step core n s t ht ▸ ih t

/-- Settles O38: one cycle by the way it ends, a run by induction on its length. -/
theorem everyCycleAnswersANextState : Obligations.EveryCycleAnswersANextState := ⟨step_next, run_next⟩

/-! ## The host commands -/

theorem loadWrite_of_le {a : Nat} (h : a ≤ 0xFFF) (b : Byte) : s.command (.loadWrite a b) = s.writeByte a b :=
  if_pos h

/-- Settles O45: LOAD_WRITE by the laws of memory, RESTORE by whether a snapshot is held, the others by definition. -/
theorem hostCommandsAct : Obligations.HostCommandsAct :=
  ⟨fun s _ b inMemory => ⟨_, loadWrite_of_le inMemory b, fun _ other => State.readByte_writeByte_of_ne s other b,
      State.readByte_writeByte_self s _ b⟩,
    fun _ _ _ beyond => if_neg (Nat.not_le.2 beyond), fun _ _ => rfl, fun _ => rfl, fun _ => rfl, fun _ => rfl,
    fun _ => restore_of_none, fun _ _ => restore_of_some⟩

/-! ## CLEAR_DIRTY and a step of its cycle (60_exceptions.md R265) -/

theorem faultOf_onTick : faultOf i s.onTick = faultOf i s := by cases i <;> rfl

/-- The timers have no part in what an instruction makes of `dirty`. -/
theorem completed_onTick_dirty : (completed i s.onTick).m.dirty = (completed i s).m.dirty := by
  cases i with
  | drw => simp only [completed_drw]; rfl
  | ldVK => simp only [completed_ldVK_m]; rfl
  | ldMemV => simp only [completed_ldMemV_m]; rfl
  | ldVMem => simp only [completed_ldVMem_m]; rfl
  | _ => rfl

/-- An instruction that sets `dirty` completes: a fault leaves it. -/
theorem completed_of_sets_dirty (clean : s.m.dirty = false) (h : exec i s = .next u) (dirty : u.m.dirty = true) :
    faultOf i s = none ∧ (completed i s).m.dirty = true := by
  rcases exec_next_cases h with ⟨hf, rfl⟩ | ⟨code, a, _, rfl⟩
  · exact ⟨hf, dirty⟩
  · exact absurd (clean.symm.trans dirty) (by decide)

theorem exec_onTick_sets_dirty (clean : s.m.dirty = false) (h : exec i s = .next u) (dirty : u.m.dirty = true) :
    ∃ u', exec i s.onTick = .next u' ∧ u'.m.dirty = true := by
  obtain ⟨hf, sets⟩ := completed_of_sets_dirty clean h dirty
  exact ⟨_, exec_of_faultOf_none (faultOf_onTick.trans hf), completed_onTick_dirty.trans sets⟩

/-- What a step makes of Machine State, by the instruction run from any state it cannot tell from the host's part. -/
theorem step_m_of_exec {r p : State} (given : s.stepGiven = true) (after : s.afterHost = r) (ready : Ready r)
    (hd : decodeWord (wordAtPc r) = .ok i) (hexec : exec i p = .next u) (hm : r.m = p.m) (hc : r.cfg = p.cfg)
    (hdraws : r.draws = p.draws) (h : step s = .next t) : t.m = u.m := by
  subst after
  obtain ⟨t', ht', same, -⟩ := instructionsSeeMachineStateAlone i p (s.afterHost.setStatus .ok) u hm hc hdraws hexec
  have ran : step s = .next t' := (step_of_execute given (issue_of_decodeWord_ok ready hd)).trans ht'
  obtain rfl := Host.Outcome.next.inj (ran.symm.trans h)
  exact same

/-- Settles O44: the step runs the instruction from the cleared state, or from that state after a tick of its timers. -/
theorem clearDirtyYieldsToTheStep : Obligations.ClearDirtyYieldsToTheStep := by
  refine ⟨fun _ => rfl, fun s t u cyc rest i h noReset cleared stepped ready hd hexec dirty hstep => ?_⟩
  have given : s.stepGiven = true := by rw [stepGiven_of_cons h, stepped, noReset]; rfl
  have told : s.told = ({ s with host := rest, response := .none } : State).setDirty false := by
    rw [told_of_cons h, cleared]; rfl
  cases tick : cyc.tick with
  | false =>
    have after : s.afterHost = s.told := by rw [afterHost_of_cons h noReset, tick]; rfl
    have sameM := step_m_of_exec given (after.trans told) ready hd hexec rfl rfl rfl hstep
    rw [sameM, dirty]
  | true =>
    have after : s.afterHost = s.told.onTick := by rw [afterHost_of_cons h noReset, tick]; rfl
    obtain ⟨u', hexec', dirty'⟩ := exec_onTick_sets_dirty rfl hexec dirty
    have sameM := step_m_of_exec given (after.trans (congrArg _ told)) ready hd hexec' rfl rfl rfl hstep
    rw [sameM, dirty']

/-! ## SAVE and RESTORE (60_exceptions.md R270) -/

/-- A step writes neither the snapshot nor the schedule. -/
theorem step_keeps_snap_host (h : step s = .next t) : t.snap = s.afterHost.snap ∧ t.host = s.afterHost.host := by
  cases given : s.stepGiven with
  | false => obtain rfl := Host.Outcome.next.inj ((step_of_not_given given).symm.trans h); exact ⟨rfl, rfl⟩
  | true =>
    rcases issue_cases s.afterHost with ⟨_, hi⟩ | ⟨_, _, hi⟩ | ⟨_, _, e, _, hi⟩ | ⟨_, _, i, _, hi⟩
    · obtain rfl := Host.Outcome.next.inj ((step_of_done given hi).symm.trans h); exact ⟨rfl, rfl⟩
    · obtain rfl := Host.Outcome.next.inj ((step_of_done given hi).symm.trans h); exact ⟨rfl, rfl⟩
    · obtain rfl := Host.Outcome.next.inj ((step_of_done given hi).symm.trans h); exact ⟨rfl, rfl⟩
    · obtain ⟨_, _, snap, _, _, _, host⟩ := exec_keeps ((step_of_execute given hi).symm.trans h)
      exact ⟨snap, host⟩

/-- Of the host's signals, only SAVE and reset write the snapshot. -/
theorem afterHost_keeps_snap (noReset : s.cycle.reset = none) (noSave : s.cycle.command ≠ some .save) :
    s.afterHost.snap = s.snap := by
  have sameAsTold : s.afterHost.snap = s.told.snap := by rw [afterHost_of_no_reset noReset]; split <;> rfl
  rw [sameAsTold, State.told]
  cases hc : s.cycle.command with
  | none => rfl
  | some c =>
    obtain ⟨_, _, _, _, _, _, kept | rfl⟩ := command_frame { s with host := s.host.tail, response := .none } c
    · exact kept
    · exact absurd hc noSave

/-- A cycle that gives a command and nothing else. -/
theorem step_of_command_alone
    (h : s.host = { reset := none, command := some c, tick := false, step := false } :: rest) :
    step s = .next (({ s with host := rest, response := .none } : State).command c) := by
  rw [step_of_not_given (stepGiven_of_cons h), afterHost_of_cons h rfl, told_of_cons h]
  rfl

/-- Any number of cycles without SAVE and reset, and then a RESTORE, bring back a held snapshot. -/
theorem run_to_restore {saved : MachineState} {between rest : List Cycle}
    (hh : s.host = between ++ { reset := none, command := some .restore, tick := false, step := false } :: rest)
    (held : s.snap = some saved) (allowed : ∀ c ∈ between, c.reset = none ∧ c.command ≠ some .save) :
    ∃ t : State, core.run (between.length + 1) s = .next t ∧ t.m = saved ∧ t.snap = some saved ∧
      t.fault = FaultLatch.clear ∧ t.host = rest := by
  induction between generalizing s with
  | nil =>
    have restored : ({ s with host := rest, response := .none } : State).command .restore = _ := restore_of_some held
    have alone := (step_of_command_alone hh).trans (congrArg Host.Outcome.next restored)
    exact ⟨_, run_succ_of_step core 0 s _ alone, rfl, held, rfl, rfl⟩
  | cons first others ih =>
    obtain ⟨⟨noReset, noSave⟩, thenAllowed⟩ := List.forall_mem_cons.1 allowed
    obtain rfl := cycle_of_cons hh
    obtain ⟨u, hu⟩ := step_next s
    obtain ⟨snap, host⟩ := step_keeps_snap_host hu
    obtain ⟨t, hrun, restored⟩ := ih (s := u) (by rw [host, afterHost_host, hh]; rfl)
      (by rw [snap, afterHost_keeps_snap noReset noSave, held]) thenAllowed
    exact ⟨t, (run_succ_of_step core _ s u hu).trans hrun, restored⟩

/-- Settles O46: SAVE holds the Machine State that RESTORE brings back. -/
theorem restoreRewindsToTheSave : Obligations.RestoreRewindsToTheSave := by
  intro s between rest hh allowed
  obtain ⟨t, hrun, restored⟩ := run_to_restore (rest := rest)
    (s := State.save { s with host := between ++ _ :: rest, response := .none }) rfl rfl allowed
  exact ⟨t, (run_succ_of_step core _ s _ (step_of_command_alone hh)).trans hrun, restored⟩

end Sys2Proof.Machine
end

section
/-! SUPPORT. The order within a cycle (70_reset_and_hazards.md R298; 92_eei_decisions.md D2), and the loader, whose
cycles place the image byte by byte after a reset (R291). -/

namespace Sys2Proof.Machine

open Sys2Proof.Stmt

variable {s t : State} {cyc : Cycle} {rest : List Cycle} {inputs : Inputs}

/-! ## The order within a cycle -/

/-- A cycle that resets does nothing else, whatever it asserts beside it. -/
theorem step_of_reset (h : s.host = cyc :: rest) (reset : cyc.reset = some inputs) :
    step s = .next (({ s with host := rest } : State).resetUnit inputs) := by
  have noStep : s.stepGiven = false := by
    rw [stepGiven_of_cons h, reset, Option.isNone_some, Bool.and_false]
  have sampled : s.cycle.reset = some inputs := by rw [cycle_of_cons h, reset]
  rw [step_of_not_given noStep, State.afterHost, sampled, h]
  rfl

/-- Settles O43: reset by `step_of_reset`; else the host's part is command and tick, and the step runs from it. -/
theorem cycleOrderIsResetCommandTickStep : Obligations.CycleOrderIsResetCommandTickStep := by
  refine ⟨fun _ _ _ _ => step_of_reset, fun s cyc rest h noReset =>
    ⟨?_, fun noStep => step_of_not_given ?_, fun stepped ready _ hd =>
      step_of_execute ?_ (issue_of_decodeWord_ok ready hd)⟩⟩
  · rw [afterHost_of_cons h noReset, told_of_cons h]
  · rw [stepGiven_of_cons h, noStep, Bool.false_and]
  · rw [stepGiven_of_cons h, stepped, noReset]; rfl

/-! ## The loader -/

/-- The bytes the loader writes: the image, or none of an image over 0xE00 bytes. `loaderCycles_eq` ties it to the
loader's cycles. -/
def placedImage (image : List Byte) : List Byte := if image.length ≤ imageSize then image else []

theorem placedImage_of_le {image : List Byte} (h : image.length ≤ 0xE00) : placedImage image = image := if_pos h

theorem placedImage_of_gt {image : List Byte} (h : 0xE00 < image.length) : placedImage image = [] :=
  if_neg (Nat.not_le.2 h)

theorem loaderCycles_eq (inputs : Inputs) (image : List Byte) :
    loaderCycles inputs image =
      { reset := some inputs, command := none, tick := false, step := false } ::
        loadCycles 0x200 (placedImage image) := by
  unfold loaderCycles placedImage
  split <;> rfl

/-- What is placed ends at the last address of memory. -/
theorem placedImage_inMemory (image : List Byte) : 0x200 + (placedImage image).length ≤ memSize := by
  unfold placedImage
  split
  · rename_i fits
    simp only [imageSize] at fits
    simp only [memSize]; omega
  · decide

/-- `run_succ_of_step` with the states of this machine. -/
theorem core_run_succ {n : Nat} (h : step s = .next t) : core.run (n + 1) s = core.run n t :=
  run_succ_of_step core n s t h

/-- The LOAD_WRITE cycles store their bytes in ascending order and do nothing else. -/
theorem run_loadCycles (silent : s.response = .none) (a : Nat) (bs : List Byte) (inMemory : a + bs.length ≤ memSize) :
    core.run (loadCycles a bs).length { s with host := loadCycles a bs ++ rest } =
      .next (({ s with host := rest } : State).writeBytes a bs) := by
  induction bs generalizing s a with
  | nil => rfl
  | cons b bs ih =>
    simp only [List.length_cons, memSize] at inMemory
    have stored : step { s with host := loadCycles a (b :: bs) ++ rest } =
        .next { s.writeByte a b with host := loadCycles (a + 1) bs ++ rest } := by
      rw [step_of_command_alone rfl, loadWrite_of_le (by omega), ← silent]
      rfl
    exact (core_run_succ stored).trans
      (ih (s := s.writeByte a b) silent (a + 1) (by simp only [memSize]; omega))

/-- The loader's cycles are a reset and then the stores. -/
theorem run_loaderCycles {image : List Byte} (h : s.host = loaderCycles inputs image ++ rest) :
    core.run (loaderCycles inputs image).length s =
      .next ((({ s with host := rest } : State).resetUnit inputs).writeBytes 0x200 (placedImage image)) := by
  rw [loaderCycles_eq] at h ⊢
  exact (core_run_succ (step_of_reset h rfl)).trans
    (run_loadCycles (s := s.resetUnit inputs) rfl _ _ (placedImage_inMemory image))

/-- Settles O47: the stores go into canonical memory, each byte of the image reads back, and outside what is placed
every byte reads as reset left it. -/
theorem loaderPlacesTheImage : Obligations.LoaderPlacesTheImage := by
  intro s inputs image rest h
  refine ⟨_, run_loaderCycles h, State.writeBytes_eq _ _ _, fun k hk fits => ?_, fun a outside => ?_⟩
  · have inImage : 0x200 ≤ 0x200 + k ∧ 0x200 + k < 0x200 + image.length := by omega
    have inMemory := placedImage_inMemory image
    rw [placedImage_of_le fits] at inMemory ⊢
    rw [State.readByte_writeBytes _ _ _ _ (reset_memory_wf inputs.font) inMemory, dif_pos inImage]
    simp only [Nat.add_sub_cancel_left]
  · have notPlaced : ¬(0x200 ≤ a ∧ a < 0x200 + (placedImage image).length) := by
      rcases Nat.lt_or_ge 0xE00 image.length with tooLong | fits
      · rw [placedImage_of_gt tooLong, List.length_nil]; omega
      · rw [placedImage_of_le fits]; omega
    exact State.readByte_writeBytes_of_outside _ _ _ notPlaced

end Sys2Proof.Machine
end
